-- ==== Sys2Proof/Word.lean ====
section
/-! DEFINITION. The word types of the block: a limb of `L` bits (R11, 00_scope.md) and the 4-bit operation select
(R71, 30_encoding.md). The primitives of R14 are those of `BitVec`: `shr_w` is `>>>`, `shl_w` is `<<<` (bits past the
top are lost), `not_w` is `~~~`, all on unsigned values (R10). -/

namespace Sys2Proof

/-- A limb of `L` bits, a number and not a sequence of bytes (R53). -/
abbrev Limb (L : Nat) := BitVec L

/-- The operation select port `op[3:0]` (R71). -/
abbrev OpCode := BitVec 4

/-- A one-bit result as a `w`-bit value 0 or 1. -/
def bitWord (w : Nat) (b : Bool) : BitVec w := if b then 1#w else 0#w

end Sys2Proof
end

