-- ==== Sys2Proof/Syntax.lean ====
section
/-! DEFINITION. The syntax of requests: the twelve operations (R73), their formats (R74 to R81), the request with its
operands (`Instr`, one constructor per row of spec/opcode_table.json), the request ports (R71), and what a client fixes
at elaboration (R7). -/

namespace Sys2Proof

/-- The twelve operations of R73. -/
inductive Op where
  | state | next | toU64 | bit | setBit | popcount | complement | parity | parityTop | shr1 | shr1p | equal
deriving DecidableEq, Repr

/-- The seven formats: which request ports are significant (R74 to R81). -/
inductive Format where
  | f0 | fi | fiv | fp | fv | fl | fw
deriving DecidableEq, Repr

/-- One request with its significant operands. Operands are unsigned and taken as they stand (R82), so they are
numbers here; `Instr.wf` says which of them a port of the addressed instance can carry. -/
inductive Instr where
  /-- `STATE`: read the state register (R172, R192). -/
  | state
  /-- `NEXT`: one step of the register (R173, R194). -/
  | next
  /-- `TO_U64`: the value as a 64-bit number (R127, R193). -/
  | toU64
  /-- `BIT idx` (R114). -/
  | bit (idx : Nat)
  /-- `SET_BIT idx, val` (R115). -/
  | setBit (idx : Nat) (val : Bool)
  /-- `POPCOUNT` (R116). -/
  | popcount
  /-- `COMPLEMENT` (R117). -/
  | complement
  /-- `PARITY pos0, ...`: the listed positions, `cnt` of them (R119). -/
  | parity (pos : List Nat)
  /-- `PARITY_TOP pos0, ...` (R120). -/
  | parityTop (pos : List Nat)
  /-- `SHR1 val` (R123). -/
  | shr1 (val : Bool)
  /-- `SHR1P fill` (R124). -/
  | shr1p (fill : Nat)
  /-- `EQ w0, ...`: the limbs of the comparand, limb 0 first (R128). -/
  | equal (w : List Nat)
deriving DecidableEq, Repr

/-- The operation a request selects. -/
def Instr.op : Instr → Op
  | .state => .state
  | .next => .next
  | .toU64 => .toU64
  | .bit _ => .bit
  | .setBit _ _ => .setBit
  | .popcount => .popcount
  | .complement => .complement
  | .parity _ => .parity
  | .parityTop _ => .parityTop
  | .shr1 _ => .shr1
  | .shr1p _ => .shr1p
  | .equal _ => .equal

/-- The request ports of R71, all presented together (R70). The widths of `idx`, `pos0..pos3`, `fill` and of each
`w` port depend on the addressed instance (`Shape`), so their values are numbers. -/
structure Ports where
  op : OpCode
  idx : Nat
  val : Bool
  cnt : BitVec 3
  pos0 : Nat
  pos1 : Nat
  pos2 : Nat
  pos3 : Nat
  fill : Nat
  w : List Nat
deriving DecidableEq, Repr

/-- The widths of the request ports of one instance: `IW`, `L` and `K` of R9 (`L` and `K` are 0 for a Small engine,
which has no limbs). -/
structure Shape where
  indexWidth : Nat
  limbWidth : Nat
  limbCount : Nat
deriving DecidableEq, Repr

/-- The three kinds of instance (R6, R7). -/
inductive Kind where
  | small | big | mli
deriving DecidableEq, Repr

/-- What a client fixes when it elaborates an instance (R7, R245, R254). `none` for `L` or `DIRECT_TOP_BIT` asks for
the default. -/
structure Params where
  kind : Kind
  N : Nat
  L : Option Nat
  directTopBit : Option Bool
deriving DecidableEq, Repr

end Sys2Proof
end

