-- ==== Sys2Proof/Machine/Constants.lean ====
section
/-! DEFINITION. The constants derived from an instance's parameters (R9, 00_scope.md), by the spec's names. -/

namespace Sys2Proof.Machine

/-- `K = ceil(N / L)`, the number of limbs. -/
def limbCount (N L : Nat) : Nat := (N + L - 1) / L

/-- `M = (N - 1) mod L`, the offset of value bit `N - 1` in the top limb. -/
def topOffset (N L : Nat) : Nat := (N - 1) % L

/-- `E = K * L - N`, the number of excess bits in the top limb. -/
def excessBits (N L : Nat) : Nat := limbCount N L * L - N

/-- `TOPMASK = 2^(M+1) - 1`, the mask of the used bits of the top limb. -/
def topMask (N L : Nat) : Limb L := BitVec.ofNat L (2 ^ (topOffset N L + 1) - 1)

/-- `IW = floor(log2 N) + 1`, the width of a bit-index operand. -/
def indexWidth (N : Nat) : Nat := Nat.log2 N + 1

/-- The port widths of a Small engine: it has no limb-sized port. -/
def smallShape (N : Nat) : Shape := ⟨indexWidth N, 0, 0⟩

/-- The port widths of a Big engine or an MLI instance. -/
def limbShape (N L : Nat) : Shape := ⟨indexWidth N, L, limbCount N L⟩

end Sys2Proof.Machine
end

