-- ==== Sys2Proof/WellFormed.lean ====
section
/-! DEFINITION. Which requests the ports of an instance can carry (R71): an index or position fits `IW` bits, a
position list has 0 to 4 entries (R78), a fill fits `L` bits, a comparand is `K` limbs of `L` bits (R81). A request may
be well formed and still fault or be refused: an index in `N .. 2^IW - 1` is well formed and out of range (R113). -/

namespace Sys2Proof

/-- Every listed number fits `n` bits. -/
def allFit (n : Nat) (xs : List Nat) : Bool := xs.all (fun x => decide (x < 2 ^ n))

/-- The request can be presented at ports of these widths (R71). -/
def Instr.wf (sh : Shape) : Instr → Bool
  | .state => true
  | .next => true
  | .toU64 => true
  | .bit idx => decide (idx < 2 ^ sh.indexWidth)
  | .setBit idx _ => decide (idx < 2 ^ sh.indexWidth)
  | .popcount => true
  | .complement => true
  | .parity pos => decide (pos.length ≤ 4) && allFit sh.indexWidth pos
  | .parityTop pos => decide (pos.length ≤ 4) && allFit sh.indexWidth pos
  | .shr1 _ => true
  | .shr1p fill => decide (fill < 2 ^ sh.limbWidth)
  | .equal w => decide (w.length = sh.limbCount) && allFit sh.limbWidth w

end Sys2Proof
end

