-- ==== Sys2Proof/Decode.lean ====
section
/-! DEFINITION. The decoder of 30_encoding.md (R73 to R92): read `op`, look the row up, take the row's ports; and the
encoder, written from the same tables. The spec's encoding of a request is the tuple of its ports (R89), so decoding
starts from `Ports`. It is total: every tuple gives a request or a rejection by name. -/

namespace Sys2Proof

/-- Why a tuple of ports is no request. -/
inductive DecodeError where
  /-- `op` is 0xC to 0xF (R86). -/
  | reservedOp
  /-- `cnt` is 5, 6 or 7 in format FP (R86). -/
  | badCnt (op : Op)
  /-- A significant port holds a number its wires cannot carry, or `EQ` has not `K` limbs (R71). Log 8. -/
  | portWidth (op : Op)
deriving DecidableEq, Repr

/-- What the decoder answers. -/
inductive Decoded where
  | instr (i : Instr)
  | reject (e : DecodeError)
deriving DecidableEq, Repr

/-- The operation select of R73. -/
def Op.code : Op → OpCode
  | .state => 0x0#4
  | .next => 0x1#4
  | .toU64 => 0x2#4
  | .bit => 0x3#4
  | .setBit => 0x4#4
  | .popcount => 0x5#4
  | .complement => 0x6#4
  | .parity => 0x7#4
  | .parityTop => 0x8#4
  | .shr1 => 0x9#4
  | .shr1p => 0xA#4
  | .equal => 0xB#4

/-- The row of an operation select, none for the reserved codes 0xC to 0xF (R73, R86). -/
def opOfCode (c : OpCode) : Option Op :=
  match c.toNat with
  | 0 => some .state
  | 1 => some .next
  | 2 => some .toU64
  | 3 => some .bit
  | 4 => some .setBit
  | 5 => some .popcount
  | 6 => some .complement
  | 7 => some .parity
  | 8 => some .parityTop
  | 9 => some .shr1
  | 10 => some .shr1p
  | 11 => some .equal
  | _ => none

/-- The format of an operation (R73, R75 to R81). -/
def Op.format : Op → Format
  | .state => .f0
  | .next => .f0
  | .toU64 => .f0
  | .bit => .fi
  | .setBit => .fiv
  | .popcount => .f0
  | .complement => .f0
  | .parity => .fp
  | .parityTop => .fp
  | .shr1 => .fv
  | .shr1p => .fl
  | .equal => .fw

/-- The first `cnt` position ports, in order (R71, R78). -/
def Ports.positions (p : Ports) : List Nat := [p.pos0, p.pos1, p.pos2, p.pos3].take p.cnt.toNat

/-- The request the significant ports of a row spell, as they stand (R82); ports that are not significant are not
read (R83). -/
def instrOf (op : Op) (p : Ports) : Instr :=
  match op with
  | .state => .state
  | .next => .next
  | .toU64 => .toU64
  | .bit => .bit p.idx
  | .setBit => .setBit p.idx p.val
  | .popcount => .popcount
  | .complement => .complement
  | .parity => .parity p.positions
  | .parityTop => .parityTop p.positions
  | .shr1 => .shr1 p.val
  | .shr1p => .shr1p p.fill
  | .equal => .equal p.w

/-- `cnt` is one of the reserved values 5, 6, 7 of format FP (R78, R86). -/
def reservedCnt (op : Op) (p : Ports) : Bool :=
  match op.format with
  | .fp => decide (4 < p.cnt.toNat)
  | .f0 => false
  | .fi => false
  | .fiv => false
  | .fv => false
  | .fl => false
  | .fw => false

/-- The decoder (R92). What the addressed instance offers is checked where the instance is known (R84). -/
def decode (sh : Shape) (p : Ports) : Decoded :=
  match opOfCode p.op with
  | none => .reject .reservedOp
  | some op =>
    if reservedCnt op p then .reject (.badCnt op)
    else if (instrOf op p).wf sh then .instr (instrOf op p)
    else .reject (.portWidth op)

/-- The tuple with operation select `c` and every other port zero. -/
def zeroPorts (sh : Shape) (c : OpCode) : Ports :=
  { op := c, idx := 0, val := false, cnt := 0#3, pos0 := 0, pos1 := 0, pos2 := 0, pos3 := 0, fill := 0,
    w := List.replicate sh.limbCount 0 }

/-- The tuple with a position list in its ports (R78). -/
def withPositions (p : Ports) (pos : List Nat) : Ports :=
  { p with cnt := BitVec.ofNat 3 pos.length, pos0 := pos.getD 0 0, pos1 := pos.getD 1 0, pos2 := pos.getD 2 0,
           pos3 := pos.getD 3 0 }

/-- The ports that spell a request; ports that are not significant are zero (R73 to R81). -/
def encode (sh : Shape) (i : Instr) : Ports :=
  let z := zeroPorts sh i.op.code
  match i with
  | .state => z
  | .next => z
  | .toU64 => z
  | .bit idx => { z with idx := idx }
  | .setBit idx val => { z with idx := idx, val := val }
  | .popcount => z
  | .complement => z
  | .parity pos => withPositions z pos
  | .parityTop pos => withPositions z pos
  | .shr1 val => { z with val := val }
  | .shr1p fill => { z with fill := fill }
  | .equal w => { z with w := w }

/-- The ports a word of the opcode table stands for: the table gives `op[3:0]` the bits 3 to 0 and gives no other port
a bit, so every other port is zero; the other bits of the byte are no port's and are not read (R83). Log 7. -/
def tablePorts (sh : Shape) (nbits w : Nat) : Ports := zeroPorts sh (BitVec.ofNat 4 (w % 2 ^ nbits))

/-- The port widths used where the table's word is read with no instance at hand: those of the MLI instance of
`State.reset` (`N = 12`, `L = 8`). Log 7. -/
def tableShape : Shape := Machine.limbShape 12 8

/-- The request the decoder reads from a word of the opcode table. -/
def decodeTableWord (nbits w : Nat) : Option Instr :=
  match decode tableShape (tablePorts tableShape nbits w) with
  | .instr i => some i
  | .reject _ => none

end Sys2Proof
end

