-- ==== Sys2Proof/Machine/Limbs.lean ====
section
/-! DEFINITION. The pure functions on limb arrays (41_multilimb_integer.md): each operation of the Multi-Limb Integer
once, used by the MLI requests and by the Big engine's `NEXT`. A limb array is a list, limb 0 first (R52). A limb the
list does not have reads as zero; the invariant (R24, R27) keeps the list at `K` limbs, so this is never met. Log 19. -/

namespace Sys2Proof.Machine

/-- `val(V)`, the sum of `V[j] * 2^(L*j)` (R11, R111). -/
def limbsVal {L : Nat} : List (Limb L) → Nat
  | [] => 0
  | v :: vs => v.toNat + 2 ^ L * limbsVal vs

/-- `V[j]`. -/
def limbAt {L : Nat} (V : List (Limb L)) (j : Nat) : Limb L := V.getD j 0#L

/-- `K` limbs of zero (R28). -/
def zeroLimbs (N L : Nat) : List (Limb L) := List.replicate (limbCount N L) 0#L

/-- Limb 0 is 1 and every other limb is zero (R26). -/
def oneLimbs (N L : Nat) : List (Limb L) := (zeroLimbs N L).set 0 1#L

/-- `bit(V[i div L], i mod L)` (R111, R114). -/
def bitAt {L : Nat} (V : List (Limb L)) (i : Nat) : Bool := (limbAt V (i / L)).getLsbD (i % L)

/-- `(V[j] and not shl(1, o)) or shl(val, o)` at the limb of bit `i` (R115). -/
def setBitAt {L : Nat} (V : List (Limb L)) (i : Nat) (b : Bool) : List (Limb L) :=
  V.set (i / L) ((limbAt V (i / L) &&& ~~~(1#L <<< (i % L))) ||| (bitWord L b <<< (i % L)))

/-- `popcount_w(v)`: how many of the bits `0 .. w-1` are set (R14). -/
def popcountLimb {L : Nat} (v : Limb L) : Nat := (List.range L).countP (fun i => v.getLsbD i)

/-- The sum of the limbs' population counts (R116). -/
def popcountLimbs {L : Nat} (V : List (Limb L)) : Nat := (V.map popcountLimb).sum

/-- Every limb complemented, then the top limb masked with `TOPMASK` (R117). -/
def complementLimbs (N : Nat) {L : Nat} (V : List (Limb L)) : List (Limb L) :=
  (V.map (fun v => ~~~v)).modify (limbCount N L - 1) (fun v => v &&& topMask N L)

/-- `parity(V, list)`: the XOR of the bits at the listed positions, for a list of any length (R119). -/
def parityAt {L : Nat} (V : List (Limb L)) (ps : List Nat) : Bool := ps.foldl (fun b p => b ^^ bitAt V p) false

/-- `parity_top(V, list)`: the parity shifted to offset `M` of the top limb (R120). -/
def parityTopAt (N : Nat) {L : Nat} (V : List (Limb L)) (ps : List Nat) : Limb L :=
  bitWord L (parityAt V ps) <<< topOffset N L

/-- One term of the chain of R122: the limb of position `p` moved so that its bit stands at offset `M`. -/
def chainTerm (N : Nat) {L : Nat} (V : List (Limb L)) (p : Nat) : Limb L :=
  if p % L ≤ topOffset N L then limbAt V (p / L) <<< (topOffset N L - p % L)
  else limbAt V (p / L) >>> (p % L - topOffset N L)

/-- The chain form of the pre-shifted parity: one XOR chain of shifted limbs, then the mask `2^M` (R122). -/
def parityTopChain (N : Nat) {L : Nat} (V : List (Limb L)) (ps : List Nat) : Limb L :=
  ps.foldl (fun acc p => acc ^^^ chainTerm N V p) 0#L &&& (1#L <<< topOffset N L)

/-- The one ascending pass of R123 and R124: each limb shifts right and takes the bottom bit of the limb above; the
top limb takes `fill`. Every limb above is read before it is written (R249). -/
def shiftLimbs {L : Nat} (fill : Limb L) : List (Limb L) → List (Limb L)
  | [] => []
  | [v] => [(v >>> 1) ||| fill]
  | v :: u :: rest => ((v >>> 1) ||| ((u &&& 1#L) <<< (L - 1))) :: shiftLimbs fill (u :: rest)

/-- `shr1(V, b)`: the boolean fill goes to offset `M` of the top limb (R123). -/
def shr1Limbs (N : Nat) {L : Nat} (V : List (Limb L)) (b : Bool) : List (Limb L) :=
  shiftLimbs (bitWord L b <<< topOffset N L) V

/-- `shr1p(V, fill)`: the pre-positioned fill (R124). -/
def shr1pLimbs {L : Nat} (V : List (Limb L)) (fill : Limb L) : List (Limb L) := shiftLimbs fill V

/-- The value as a 64-bit number, low limb first (R127). -/
def toU64Limbs {L : Nat} (V : List (Limb L)) : BitVec 64 := BitVec.ofNat 64 (limbsVal V)

/-- Equality of the limb arrays (R128). -/
def equalLimbs {L : Nat} (V w : List (Limb L)) : Bool := decide (V = w)

end Sys2Proof.Machine
end

