-- ==== Sys2Proof/Config.lean ====
section
/-! DEFINITION. What the spec leaves to the platform or the builder (the OPEN parameters of 92_eei_decisions.md), the
defaults of R245, and the reasons an elaboration is rejected (R212). A free value has no body: nothing can be proved of
it but what holds of every value. -/

namespace Sys2Proof

/-- `DEFAULT_L`, the limb width when the client names none (R7, D2). -/
def Config.defaultLimbWidth : Nat := 32

/-- The default of `DIRECT_TOP_BIT` (R245, D16). -/
def Config.defaultDirectTopBit : Bool := false

/-- The OPEN platform parameter `HAS_U128` (R7, R103, D23) of the platform `State.reset` stands on. Log 5. -/
opaque Config.hasU128 : Bool

/-- The free choices behind the OPEN tap table (R154, D3) of the platform `State.reset` stands on: the `k`-th free
number for width `N`. `Machine/TapTable.lean` turns them into tap sets of the shape of R151. Log 4. -/
opaque Config.tapChoice : Nat → Nat → Nat

/-- The reasons an elaboration is rejected, complete (R212). -/
inductive Rejection where
  /-- `E_WIDTH_UNSUPPORTED`: an engine, or `TAPS(N)`, with `N` outside `LEGAL_N`. Safe: no instance exists. -/
  | widthUnsupported
  /-- `E_NO_NATIVE_TYPE`: `SEL(N)` has no native type. Safe. -/
  | noNativeType
  /-- `E_TAP_DEFECT`: some entry of the tap table fails the shape check. Safe. -/
  | tapDefect
  /-- `E_LIMB_WIDTH`: `L` is not an admitted limb width. Safe. -/
  | limbWidth
  /-- `E_MLI_WIDTH`: an MLI instance with `N < 1`. Safe. -/
  | mliWidth
deriving DecidableEq, Repr

/-- The numeric codes of R212. -/
def Rejection.code : Rejection → Nat
  | .widthUnsupported => 1
  | .noNativeType => 2
  | .tapDefect => 3
  | .limbWidth => 4
  | .mliWidth => 5

/-- What an elaboration-time function answers: a value or a rejection (R100, R152, R211). -/
inductive Elab (α : Type) where
  | ok (a : α)
  | rejected (r : Rejection)
deriving DecidableEq, Repr

end Sys2Proof
end

