-- ==== Sys2Proof/Machine/Selector.lean ====
section
/-! DEFINITION. The Width-to-Integer Selector (40_width_selector.md, R100 to R105), evaluated at elaboration only. -/

namespace Sys2Proof.Machine

/-- `SEL(N)`: the smallest of the native widths 8, 16, 32, 64 and, with `HAS_U128`, 128 that holds `N` bits (R100). -/
def sel (hasU128 : Bool) (N : Nat) : Elab Nat :=
  if N < 1 then .rejected .noNativeType
  else if N ≤ 8 then .ok 8
  else if N ≤ 16 then .ok 16
  else if N ≤ 32 then .ok 32
  else if N ≤ 64 then .ok 64
  else if N ≤ 128 then (if hasU128 then .ok 128 else .rejected .noNativeType)
  else .rejected .noNativeType

end Sys2Proof.Machine
end

