-- ==== Sys2Proof/Machine/TapTable.lean ====
section
/-! DEFINITION. The Tap Table and the legal widths (42_tap_table.md, R150 to R161). The table is data: a list of rows
(width, tap set), read once while an engine is elaborated and as a constant by `NEXT`. Its contents are the OPEN
parameter `TAPS` (R154); the source fixes one row, `TAPS(3) = (3, 2)` (R153). -/

namespace Sys2Proof.Machine

/-- `LEGAL_N` as a list: 3 to 168, then 512, 768, 1024, 2048, 4096 (R150). -/
def legalWidths : List Nat := List.range' 3 166 ++ [512, 768, 1024, 2048, 4096]

/-- `N` is in `LEGAL_N` (R150). -/
def isLegalWidth (N : Nat) : Bool :=
  (decide (3 ≤ N) && decide (N ≤ 168)) || N == 512 || N == 768 || N == 1024 || N == 2048 || N == 4096

/-- Each entry is greater than the next (R151). -/
def strictlyDescending : List Nat → Bool
  | [] => true
  | [_] => true
  | a :: b :: rest => decide (b < a) && strictlyDescending (b :: rest)

/-- `well_formed(N, T)`, the shape check of R156. -/
def wellFormedTaps (N : Nat) (T : List Nat) : Bool :=
  (T.length == 2 || T.length == 4) && T.head? == some N && strictlyDescending T && T.all (fun t => decide (1 ≤ t))

/-- The table's entry for `N`: its first row for `N`, and the empty list, which fails the shape check, where it has
none. Log 18. -/
def tapEntry (table : List (Nat × List Nat)) (N : Nat) : List Nat :=
  match table.find? (fun row => row.1 == N) with
  | some row => row.2
  | none => []

/-- `TAPS(N)`, the lookup (R152): no fallback and no default for an unsupported width. -/
def taps (table : List (Nat × List Nat)) (N : Nat) : Elab (List Nat) :=
  if isLegalWidth N then .ok (tapEntry table N) else .rejected .widthUnsupported

/-- The static check of the table: every entry is well formed (R156). -/
def tapTableOk (table : List (Nat × List Nat)) : Bool := legalWidths.all (fun N => wellFormedTaps N (tapEntry table N))

/-- The tap positions `P = [N - t for t in T]` (R157). -/
def tapPositions (N : Nat) (T : List Nat) : List Nat := T.map (fun t => N - t)

/-- A tap set of the shape of R151 from four free numbers: two taps or four, and the taps below `N`. Every well-formed
tap set of a width `N ≥ 4` is given by some choice. Log 4. -/
def shapeTaps (N : Nat) (c : Nat → Nat) : List Nat :=
  if c 0 % 2 = 0 then [N, 1 + c 1 % (N - 1)]
  else
    let t1 := 3 + c 1 % (N - 3)
    let t2 := 2 + c 2 % (t1 - 2)
    let t3 := 1 + c 3 % (t2 - 1)
    [N, t1, t2, t3]

/-- The entry of the open table: `TAPS(3) = (3, 2)` (R153), and for every other width a free entry of the shape of
R151 (R154). -/
def openTaps (N : Nat) : List Nat := if N = 3 then [3, 2] else shapeTaps N (Config.tapChoice N)

/-- The open table, one row for each legal width. -/
def openTable : List (Nat × List Nat) := legalWidths.map (fun N => (N, openTaps N))

end Sys2Proof.Machine
end

