-- ==== Sys2Proof/Machine/State.lean ====
section
/-! DEFINITION. The state: the instances that stand side by side, each with its parameters and its registers (R36,
10_state.md), the platform parameters they share (R7, R160), and the model's own fields for what the client will do
(`pending`, `target`), what it got back (`outputs`) and which requests got neither a step nor a meaning (`marks`). All of
it is plain data. Logs 1, 2, 3, 11, 29. -/

namespace Sys2Proof.Machine

/-- The OPEN parameters of the platform and builder: `HAS_U128` (R103) and the table `TAPS` (R154), one for all
instances (R160). -/
structure Platform where
  hasU128 : Bool
  taps : List (Nat × List Nat)
deriving DecidableEq, Repr

/-- A Small engine (R20): one register `S` of `W = SEL(N)` bits. -/
structure SmallEngine where
  N : Nat
  W : Nat
  directTop : Bool
  S : BitVec W
deriving DecidableEq, Repr

/-- A Big engine (R23): one register `S`, an array of `L`-bit limbs, limb 0 first. -/
structure BigEngine where
  N : Nat
  L : Nat
  directTop : Bool
  S : List (Limb L)
deriving DecidableEq, Repr

/-- A Multi-Limb Integer instance (R27, R30): the register `V`, limb 0 first, and the sticky bit `FAULTED`. -/
structure Mli where
  N : Nat
  L : Nat
  V : List (Limb L)
  faulted : Bool
deriving DecidableEq, Repr

/-- An instance of one of the three kinds (R6). -/
inductive Instance where
  | small (e : SmallEngine)
  | big (e : BigEngine)
  | mli (m : Mli)
deriving DecidableEq, Repr

/-- The named result of a request that ended `Ok`; a port not named for the operation holds no defined value and is
not returned (R72). -/
inductive Result where
  /-- no result port (`NEXT`, `SET_BIT`, `COMPLEMENT`, `SHR1`, `SHR1P`) -/
  | none
  /-- `rbit` (`BIT`, `PARITY`, `EQ`) -/
  | rbit (b : Bool)
  /-- `rcount` (`POPCOUNT`) -/
  | rcount (n : Nat)
  /-- `rlimb` (`PARITY_TOP`) -/
  | rlimb (L : Nat) (v : Limb L)
  /-- `r64` (`TO_U64`) -/
  | r64 (v : BitVec 64)
  /-- `rstate` of a Small engine (`STATE`) -/
  | rstate (W : Nat) (v : BitVec W)
  /-- `rstate0 .. rstate(K-1)` of a Big engine (`STATE`) -/
  | rstateLimbs (L : Nat) (vs : List (Limb L))
deriving DecidableEq, Repr

/-- The causes of a run-time fault: exactly one (R215). -/
inductive FaultCause where
  /-- `F_INDEX`, code 1: a bit index out of range -/
  | index
deriving DecidableEq, Repr

/-- The `cause` port (R72, R215). -/
def FaultCause.code : FaultCause → BitVec 4
  | .index => 1#4

/-- The response to a request: `Ok` with the result, or `Fault(cause, info)` (R72, R210, R216). -/
inductive Response where
  | ok (r : Result)
  | fault (cause : FaultCause) (info : Nat)
deriving DecidableEq, Repr

/-- The `status` port: 0 for `Ok`, 1 for `Fault` (R72). -/
def Response.status : Response → BitVec 1
  | .ok _ => 0#1
  | .fault _ _ => 1#1

/-- What the client gets back (R254): the response of an instance, or the result of an elaboration. -/
inductive Event where
  /-- instance `k` answered a request -/
  | response (k : Nat) (r : Response)
  /-- an elaboration made instance `k` -/
  | elaborated (k : Nat)
  /-- an elaboration was rejected; there is no instance (R211) -/
  | rejected (r : Rejection)
deriving DecidableEq, Repr

/-- What a client can do (R254): elaborate an instance, present a request to instance `k`, cause its reset event. -/
inductive Move where
  | elaborate (p : Params)
  | request (k : Nat) (ports : Ports)
  | reset (k : Nat)
deriving DecidableEq, Repr

/-- Why a request has no step. (The block's own fault `F_INDEX` is no stop: it is taken, R216.) -/
inductive Fault where
  /-- raised by every meaning at an MLI instance whose `FAULTED` is 1: such a request has no step (R221). The client's
  other moves go on (log 9). Safe: the instance takes nothing and answers nothing. -/
  | stuck
deriving DecidableEq, Repr

/-- Why the machine gives a request no meaning (R213, R214). The run of the addressed instance is then marked, and the
client's other moves go on; log 10 says for which claims that is unsafe. The model's own reasons, which no client can
cause, end the machine. -/
inductive Refusal where
  /-- raised by an arm of `exec` whose instruction has no meaning yet. Safe. -/
  | notModelled (mnemonic : String)
  /-- `R_NOT_OFFERED`, raised by any request the instance does not offer (R85). Safe. -/
  | notOffered
  /-- `R_RESERVED_OP`, raised by a request with `op` 0xC to 0xF (R86). Safe. -/
  | reservedOp
  /-- `R_BAD_CNT`, raised by `PARITY` and `PARITY_TOP` with `cnt` 5 to 7 (R86). Safe. -/
  | badCnt
  /-- `R_BAD_FILL`, raised by `SHR1P` with a fill that is neither 0 nor `2^M` (R124). Safe. -/
  | badFill
  /-- `R_WIDE_U64`, raised by `TO_U64` on an MLI instance with `N > 64` and a value of `2^64` or more (R127). Safe. -/
  | wideU64
  /-- `R_BAD_OPERAND`, raised by `EQ` with a comparand that is no Multi-Limb Integer value (R128). Safe. -/
  | badOperand
  /-- the model's own: a request or reset event addressed to an instance that does not exist (R210). Safe. Log 14. -/
  | noInstance
  /-- the model's own: a significant port holds a number its wires cannot carry (R71). Safe. Log 8. -/
  | portWidth
deriving DecidableEq, Repr

/-- The numeric codes of R214; 0 for the model's own reasons, which the spec does not number. -/
def Refusal.code : Refusal → Nat
  | .notOffered => 1
  | .reservedOp => 2
  | .badCnt => 3
  | .badFill => 4
  | .wideU64 => 5
  | .badOperand => 6
  | _ => 0

/-- A request that got neither a step nor a meaning; it marks the run of the instance it addressed (R213, R221, R255).
The model's own, logs 9, 10 and 29. -/
inductive Mark where
  /-- a request to instance `k`, which was stuck: it had no step (R221) -/
  | noStep (k : Nat)
  /-- a request to instance `k` was refused (R213) -/
  | refused (k : Nat) (r : Refusal)
deriving DecidableEq, Repr

/-- The number of the instance whose run is marked. -/
def Mark.index : Mark → Nat
  | .noStep k => k
  | .refused k _ => k

/-- The whole state. -/
structure State where
  /-- `HAS_U128` and `TAPS`; no step changes them (R7, R32, R62) -/
  platform : Platform
  /-- the instances, numbered in the order of their elaboration (R229) -/
  instances : List Instance
  /-- the model's own: the instance the current request is presented to -/
  target : Nat
  /-- the model's own: what the client will do, oldest first (R31, R57) -/
  pending : List Move
  /-- the model's own: what the client got back, newest first (R72, R255) -/
  outputs : List Event
  /-- the model's own: the requests that got neither a step nor a meaning, newest first (R213, R221, R255) -/
  marks : List Mark
deriving DecidableEq, Repr

/-- The outcomes of a step of this machine. -/
abbrev Out := Host.Outcome State Fault Refusal

/-- The machine right after reset (R241): one instance of each kind at its reset values, on a platform whose OPEN
parameters are free values. Which instances stand is the model's choice, log 3. -/
def State.reset : State :=
  { platform := ⟨Config.hasU128, openTable⟩
    instances :=
      [ .small { N := 3, W := 8, directTop := Config.defaultDirectTopBit, S := 1#8 },
        .big { N := 3, L := Config.defaultLimbWidth, directTop := Config.defaultDirectTopBit, S := [1#32] },
        .mli { N := 12, L := 8, V := [0#8, 0#8], faulted := false } ]
    target := 0
    pending := []
    outputs := []
    marks := [] }

end Sys2Proof.Machine
end

