-- ==== Sys2Proof/Machine/Elaborate.lean ====
section
/-! DEFINITION. Elaboration: the checks of each kind of instance in their order, and the instance in its reset state
(R110, R170, R190, R212, R245), and the reset values (R241). -/

namespace Sys2Proof.Machine

/-- `L` is an admitted limb width: 8, 16, 32, 64, and 128 only with `HAS_U128` (R110). -/
def admittedLimbWidth (hasU128 : Bool) (L : Nat) : Bool :=
  L == 8 || L == 16 || L == 32 || L == 64 || (L == 128 && hasU128)

/-- Every piece of the instance's state at its reset value; the parameters are no state (R240, R241). -/
def Instance.resetState : Instance → Instance
  | .small e => .small { e with S := 1#e.W }
  | .big e => .big { e with S := oneLimbs e.N e.L }
  | .mli m => .mli { m with V := zeroLimbs m.N m.L, faulted := false }

/-- A Small engine: width, native type, tap table, in this order (R170). -/
def elaborateSmall (pf : Platform) (N : Nat) (directTop : Bool) : Elab Instance :=
  if !isLegalWidth N then .rejected .widthUnsupported
  else match sel pf.hasU128 N with
    | .rejected r => .rejected r
    | .ok W =>
      if !tapTableOk pf.taps then .rejected .tapDefect
      else .ok (Instance.resetState (.small { N := N, W := W, directTop := directTop, S := 0#W }))

/-- A Big engine: width, limb width, tap table, in this order (R190). -/
def elaborateBig (pf : Platform) (N L : Nat) (directTop : Bool) : Elab Instance :=
  if !isLegalWidth N then .rejected .widthUnsupported
  else if !admittedLimbWidth pf.hasU128 L then .rejected .limbWidth
  else if !tapTableOk pf.taps then .rejected .tapDefect
  else .ok (Instance.resetState (.big { N := N, L := L, directTop := directTop, S := [] }))

/-- An MLI instance: width, then limb width (R110, R245). -/
def elaborateMli (pf : Platform) (N L : Nat) : Elab Instance :=
  if N < 1 then .rejected .mliWidth
  else if !admittedLimbWidth pf.hasU128 L then .rejected .limbWidth
  else .ok (Instance.resetState (.mli { N := N, L := L, V := [], faulted := false }))

/-- Elaboration of an instance, with the defaults `L = 32` and `DIRECT_TOP_BIT = 0` (R245). A Small engine has no limb
width, an MLI instance no strategy: a value given for one is not looked at. -/
def elaborate (pf : Platform) (p : Params) : Elab Instance :=
  let L := p.L.getD Config.defaultLimbWidth
  let directTop := p.directTopBit.getD Config.defaultDirectTopBit
  match p.kind with
  | .small => elaborateSmall pf p.N directTop
  | .big => elaborateBig pf p.N L directTop
  | .mli => elaborateMli pf p.N L

end Sys2Proof.Machine
end

