-- ==== Sys2Proof/Machine/Flags.lean ====
section
/-! DEFINITION. The block has no condition flag (R30). Its one status bit is the sticky `FAULTED` of an MLI instance:
read by nothing but the stuck rule (R221), set by a fault (R216), cleared by the reset event alone (R222). -/

namespace Sys2Proof.Machine

/-- The instance is stuck: an MLI instance with `FAULTED = 1` (R221). An engine has no such bit (R219). -/
def Instance.stuck : Instance → Bool
  | .small _ => false
  | .big _ => false
  | .mli m => m.faulted

/-- `FAULTED <- 1` (R216); `V` stays. -/
def raiseFaulted (m : Mli) : Mli := { m with faulted := true }

end Sys2Proof.Machine
end

