-- ==== Sys2Proof/Machine/Operands.lean ====
section
/-! DEFINITION. The operand forms and their checks: a bit index and a position list (R113), a pre-positioned fill
(R124), a comparand (R128); which instance offers which operation (R84); the port widths of an instance (R71). -/

namespace Sys2Proof.Machine

/-- The first out-of-range position in list order (R113, R217, R220). -/
def firstOutOfRange (N : Nat) (ps : List Nat) : Option Nat := ps.find? (fun p => decide (N ≤ p))

/-- The fill of `SHR1P` as a limb, when it is 0 or `2^M` (R124). -/
def positionedFill (N L fill : Nat) : Option (Limb L) :=
  if fill = 0 ∨ fill = 2 ^ topOffset N L then some (BitVec.ofNat L fill) else none

/-- The comparand of `EQ` as limbs, when it is a Multi-Limb Integer value of this `N` and `L`: `K` limbs of `L` bits
with `w[K-1] and not TOPMASK` zero (R128). -/
def comparand (N L : Nat) (w : List Nat) : Option (List (Limb L)) :=
  let limbs := w.map (BitVec.ofNat L)
  if w.length = limbCount N L ∧ allFit L w = true ∧ limbAt limbs (limbCount N L - 1) &&& ~~~(topMask N L) = 0#L then
    some limbs
  else none

/-- The three columns of the table of R84 for one row. -/
def Instance.byKind (inst : Instance) (small big mli : Bool) : Bool :=
  match inst with
  | .small _ => small
  | .big _ => big
  | .mli _ => mli

/-- A Big engine offers `TO_U64` only for `N <= 64` (R84, R193). -/
def Instance.fits64 : Instance → Bool
  | .small e => decide (e.N ≤ 64)
  | .big e => decide (e.N ≤ 64)
  | .mli m => decide (m.N ≤ 64)

/-- Which instance offers which operation: the table of R84, row by row. -/
def Instance.offers (inst : Instance) (op : Op) : Bool :=
  match op with
  | .state => inst.byKind true true false
  | .next => inst.byKind true true false
  | .toU64 => inst.byKind false inst.fits64 true
  | .bit => inst.byKind false false true
  | .setBit => inst.byKind false false true
  | .popcount => inst.byKind false false true
  | .complement => inst.byKind false false true
  | .parity => inst.byKind false false true
  | .parityTop => inst.byKind false false true
  | .shr1 => inst.byKind false false true
  | .shr1p => inst.byKind false false true
  | .equal => inst.byKind false false true

/-- The widths of the instance's request ports (R71). -/
def Instance.shape : Instance → Shape
  | .small e => smallShape e.N
  | .big e => limbShape e.N e.L
  | .mli m => limbShape m.N m.L

end Sys2Proof.Machine
end

