-- ==== Sys2Proof/Machine/Ops.lean ====
section
/-! DEFINITION. The named operations over the state that the meanings share: answering a request, the checks before a
meaning in the order of R220, taking the fault `F_INDEX` (R216), and the only way back from it, the reset event
(R222, R240). -/

namespace Sys2Proof.Machine

/-- The state after the addressed instance answered: it becomes `inst`, the response goes to the client, nothing else
changes (R13, R56, R58). -/
def State.answered (s : State) (inst : Instance) (r : Response) : State :=
  { s with instances := s.instances.set s.target inst, outputs := .response s.target r :: s.outputs }

/-- The state after a request that got neither a step nor a meaning: the run of its instance is marked, nothing else
changes (R213, R221). Logs 9, 10 and 29. -/
def State.marked (s : State) (m : Mark) : State := { s with marks := m :: s.marks }

/-- The request ends `Ok` with its named result (R16). -/
def answer (s : State) (inst : Instance) (r : Result) : Out := .next (s.answered inst (.ok r))

/-- TAKING THE FAULT (R216, R217): nothing of the request's writes takes place, `FAULTED <- 1`, and the response is
`status = 1`, `cause = F_INDEX`, `info` the offending index. There is no handler and no saved state. Log 9. -/
def takeIndexFault (s : State) (m : Mli) (info : Nat) : Out :=
  .next (s.answered (.mli (raiseFaulted m)) (.fault .index info))

/-- The reset event of instance `k` (R240): every piece of its state at its reset value, nothing else changes, nothing
goes to the client (R254). It is the only return from a fault (R222). -/
def resetEvent (s : State) (k : Nat) : Out :=
  match s.instances[k]? with
  | none => .refused .noInstance
  | some inst => .next { s with instances := s.instances.set k inst.resetState }

/-- The checks common to all requests, in the order of R220: the instance exists, it is not stuck (R221), it offers
the operation (R84, R85); then the meaning `f` at that instance. -/
def serve (op : Op) (s : State) (f : Instance → Out) : Out :=
  match s.instances[s.target]? with
  | none => .refused .noInstance
  | some inst =>
    if inst.stuck then .fault .stuck
    else if inst.offers op then f inst
    else .refused .notOffered

/-- A meaning for MLI instances alone; the other kinds do not offer it (R84). -/
def onMli (f : Mli → Out) : Instance → Out
  | .mli m => f m
  | .small _ => .refused .notOffered
  | .big _ => .refused .notOffered

/-- The index check of R113 before a meaning: the first position in list order that is out of range is the fault. -/
def checkIndexes (s : State) (m : Mli) (ps : List Nat) (ok : Out) : Out :=
  match firstOutOfRange m.N ps with
  | some p => takeIndexFault s m p
  | none => ok

/-- The client duplicates instance `k`: a new instance with the same parameters and the same state (R35). There is no
request for it; it is no move of a step. Log 21. -/
def State.duplicate (s : State) (k : Nat) : State :=
  match s.instances[k]? with
  | none => s
  | some inst => { s with instances := s.instances ++ [inst] }

end Sys2Proof.Machine
end

