-- ==== Sys2Proof/Machine/Convert.lean ====
section
/-! DEFINITION. `TO_U64` (R127 on an MLI instance, R193 on a Big engine; 90_conflicts.md C2). -/

namespace Sys2Proof.Machine

/-- `TO_U64`: the value as a 64-bit number. On an MLI instance wider than 64 bits it has a meaning only when the value
is below `2^64`, never a truncated value (R127). A Small engine and a wider Big engine do not offer it (R84). -/
def execToU64 (s : State) : Out :=
  serve .toU64 s fun inst =>
    match inst with
    | .small _ => .refused .notOffered
    | .big e => answer s inst (.r64 (toU64Limbs e.S))
    | .mli m =>
      if m.N ≤ 64 then answer s inst (.r64 (toU64Limbs m.V))
      else if limbsVal m.V < 2 ^ 64 then answer s inst (.r64 (toU64Limbs m.V))
      else .refused .wideU64

end Sys2Proof.Machine
end

