-- ==== Sys2Proof/Machine/Transition.lean ====
section
/-! DEFINITION. The transition: the mathematical rule `next_N` (R173) and its four computations, Strategy A and B on a
native word (R174, R175) and on limbs (R196, R195). All read the old state before anything is written (R249). -/

namespace Sys2Proof.Machine

/-- The feedback bit: the XOR of the state bits at positions `N - t` (R173 step 1). -/
def feedback (N : Nat) (T : List Nat) (s : Nat) : Bool := T.foldl (fun b t => b ^^ s.testBit (N - t)) false

/-- `next_N(s) = floor(s / 2) + b * 2^(N-1)` (R173). -/
def nextN (N : Nat) (T : List Nat) (s : Nat) : Nat := s / 2 + (feedback N T s).toNat * 2 ^ (N - 1)

/-- Small engine, Strategy A, "direct top bit" (R174): one XOR chain of shifted words, masked at bit `N - 1`. -/
def smallStepA (N : Nat) (T : List Nat) {W : Nat} (S : BitVec W) : BitVec W :=
  let acc := T.foldl (fun acc t => acc ^^^ (S <<< (t - 1))) 0#W
  let top := acc &&& (1#W <<< (N - 1))
  (S >>> 1) ||| top

/-- Small engine, Strategy B (R175): the parity in the low bit, then moved to bit `N - 1`. -/
def smallStepB (N : Nat) (T : List Nat) {W : Nat} (S : BitVec W) : BitVec W :=
  let b := T.foldl (fun b t => b ^^^ ((S >>> (N - t)) &&& 1#W)) 0#W
  (S >>> 1) ||| (b <<< (N - 1))

/-- Big engine, Strategy B, "shift-then-set" (R195). -/
def bigStepB (N : Nat) (T : List Nat) {L : Nat} (S : List (Limb L)) : List (Limb L) :=
  shr1Limbs N S (parityAt S (tapPositions N T))

/-- Big engine, Strategy A, "direct top bit" (R196), with the chain of R122. -/
def bigStepA (N : Nat) (T : List Nat) {L : Nat} (S : List (Limb L)) : List (Limb L) :=
  shr1pLimbs S (parityTopChain N S (tapPositions N T))

/-- `DIRECT_TOP_BIT` selects the strategy of a Small engine (R170). -/
def smallStep (N : Nat) (T : List Nat) (directTop : Bool) {W : Nat} (S : BitVec W) : BitVec W :=
  if directTop then smallStepA N T S else smallStepB N T S

/-- `DIRECT_TOP_BIT` selects the strategy of a Big engine (R190). -/
def bigStep (N : Nat) (T : List Nat) (directTop : Bool) {L : Nat} (S : List (Limb L)) : List (Limb L) :=
  if directTop then bigStepA N T S else bigStepB N T S

end Sys2Proof.Machine
end

