-- ==== Sys2Proof/Machine/Engine.lean ====
section
/-! DEFINITION. The engine requests `STATE` and `NEXT` (43_small_engine.md, 44_big_engine.md). -/

namespace Sys2Proof.Machine

/-- `STATE`: the register as it is, a word (R172) or limbs (R192). No state is written. -/
def execState (s : State) : Out :=
  serve .state s fun inst =>
    match inst with
    | .small e => answer s inst (.rstate e.W e.S)
    | .big e => answer s inst (.rstateLimbs e.L e.S)
    | .mli _ => .refused .notOffered

/-- `NEXT`: one step by the strategy of the instance (R173 to R175, R194 to R196); no result, no failure (R177,
R198). The tap set is the shared table's entry for `N` (R160). -/
def execNext (s : State) : Out :=
  serve .next s fun inst =>
    match inst with
    | .small e =>
      answer s (.small { e with S := smallStep e.N (tapEntry s.platform.taps e.N) e.directTop e.S }) .none
    | .big e => answer s (.big { e with S := bigStep e.N (tapEntry s.platform.taps e.N) e.directTop e.S }) .none
    | .mli _ => .refused .notOffered

end Sys2Proof.Machine
end

