-- ==== Sys2Proof/Machine/MliBits.lean ====
section
/-! DEFINITION. The MLI requests with a bit index or a position list: `BIT`, `SET_BIT`, `PARITY`, `PARITY_TOP`
(41_multilimb_integer.md R113 to R115, R119, R120). -/

namespace Sys2Proof.Machine

/-- `BIT idx` (R114). -/
def execBit (idx : Nat) (s : State) : Out :=
  serve .bit s (onMli fun m => checkIndexes s m [idx] (answer s (.mli m) (.rbit (bitAt m.V idx))))

/-- `SET_BIT idx, val` (R115). -/
def execSetBit (idx : Nat) (val : Bool) (s : State) : Out :=
  serve .setBit s (onMli fun m => checkIndexes s m [idx] (answer s (.mli { m with V := setBitAt m.V idx val }) .none))

/-- `PARITY pos0, ...` (R119). -/
def execParity (pos : List Nat) (s : State) : Out :=
  serve .parity s (onMli fun m => checkIndexes s m pos (answer s (.mli m) (.rbit (parityAt m.V pos))))

/-- `PARITY_TOP pos0, ...` (R120). -/
def execParityTop (pos : List Nat) (s : State) : Out :=
  serve .parityTop s (onMli fun m => checkIndexes s m pos (answer s (.mli m) (.rlimb m.L (parityTopAt m.N m.V pos))))

end Sys2Proof.Machine
end

