-- ==== Sys2Proof/Machine/MliWhole.lean ====
section
/-! DEFINITION. The MLI requests on the whole value: `POPCOUNT`, `COMPLEMENT`, `SHR1`, `SHR1P`, `EQ`
(41_multilimb_integer.md R116, R117, R123, R124, R128). -/

namespace Sys2Proof.Machine

/-- `POPCOUNT` (R116). -/
def execPopcount (s : State) : Out :=
  serve .popcount s (onMli fun m => answer s (.mli m) (.rcount (popcountLimbs m.V)))

/-- `COMPLEMENT` (R117). -/
def execComplement (s : State) : Out :=
  serve .complement s (onMli fun m => answer s (.mli { m with V := complementLimbs m.N m.V }) .none)

/-- `SHR1 val` (R123). -/
def execShr1 (val : Bool) (s : State) : Out :=
  serve .shr1 s (onMli fun m => answer s (.mli { m with V := shr1Limbs m.N m.V val }) .none)

/-- `SHR1P fill` (R124): any fill but 0 and `2^M` is refused. -/
def execShr1p (fill : Nat) (s : State) : Out :=
  serve .shr1p s (onMli fun m =>
    match positionedFill m.N m.L fill with
    | none => .refused .badFill
    | some f => answer s (.mli { m with V := shr1pLimbs m.V f }) .none)

/-- `EQ w0, ...` (R128): a comparand that is no value of this `N` and `L` is refused. -/
def execEqual (w : List Nat) (s : State) : Out :=
  serve .equal s (onMli fun m =>
    match comparand m.N m.L w with
    | none => .refused .badOperand
    | some c => answer s (.mli m) (.rbit (equalLimbs m.V c)))

end Sys2Proof.Machine
end

