-- ==== Sys2Proof/Machine/Dispatch.lean ====
section
/-! DEFINITION. One arm per request: its meaning at the addressed instance of the state. -/

namespace Sys2Proof.Machine

def exec (i : Instr) (s : State) : Host.Outcome State Fault Refusal :=
  match i with
  | .state => Sys2Proof.Machine.execState s
  | .next => Sys2Proof.Machine.execNext s
  | .toU64 => Sys2Proof.Machine.execToU64 s
  | .bit idx => Sys2Proof.Machine.execBit idx s
  | .setBit idx val => Sys2Proof.Machine.execSetBit idx val s
  | .popcount => Sys2Proof.Machine.execPopcount s
  | .complement => Sys2Proof.Machine.execComplement s
  | .parity pos => Sys2Proof.Machine.execParity pos s
  | .parityTop pos => Sys2Proof.Machine.execParityTop pos s
  | .shr1 val => Sys2Proof.Machine.execShr1 val s
  | .shr1p fill => Sys2Proof.Machine.execShr1p fill s
  | .equal w => Sys2Proof.Machine.execEqual w s

end Sys2Proof.Machine
end

