-- ==== Sys2Proof/Machine/Client.lean ====
section
/-! DEFINITION. What one move of the client does (R254, 70_reset_and_hazards.md): an elaboration, a request, the reset
event; and where a request word of the opcode table is presented. -/

namespace Sys2Proof.Machine

/-- A tuple the decoder rejected, in the order of R220: a reserved `op`, then an operation that is not offered, then a
reserved operand value. -/
def refuseTuple (inst : Instance) : DecodeError → Out
  | .reservedOp => .refused .reservedOp
  | .badCnt op => if inst.offers op then .refused .badCnt else .refused .notOffered
  | .portWidth op => if inst.offers op then .refused .portWidth else .refused .notOffered

/-- The addressed instance attends to a request: a stuck instance has no step (R221); the ports are decoded with the
instance's widths, and the request runs. Log 28. -/
def attend (ports : Ports) (s : State) : Out :=
  match s.instances[s.target]? with
  | none => .refused .noInstance
  | some inst =>
    if inst.stuck then .fault .stuck
    else match decode inst.shape ports with
      | .instr i => exec i s
      | .reject e => refuseTuple inst e

/-- What a request leaves behind. THE MODEL'S CHOICE (logs 9 and 10): a request with no step (R221) and a refused
request (R213) are used up and answer nothing; the run of the addressed instance is marked, that instance and every
other stay as they are (R58; P3, P4, P5 and P7 of 95_test_vectors.md), and the client's later moves are taken: those
to other instances, and that instance's own reset event (R240). A refusal for a reason of the model's own (code 0; no
client can cause one, logs 8 and 14) ends the machine. -/
def settle (s : State) : Out → Out
  | .next t => .next t
  | .fault .stuck => .next (s.marked (.noStep s.target))
  | .refused r => if r.code = 0 then .refused r else .next (s.marked (.refused s.target r))

/-- A request is presented to the addressed instance, which attends to it. What a stuck or refused request does to the
other instances and to the client's later moves is the model's choice, logs 9 and 10: nothing. -/
def presentRequest (ports : Ports) (s : State) : Out := settle s (attend ports s)

/-- An elaboration: the new instance stands in its reset state after the others (R229, R245), or there is none and the
client gets the reason (R211, R254). Log 12. -/
def elaborateMove (p : Params) (s : State) : Out :=
  match elaborate s.platform p with
  | .ok inst =>
    .next { s with instances := s.instances ++ [inst], outputs := .elaborated s.instances.length :: s.outputs }
  | .rejected r => .next { s with outputs := .rejected r :: s.outputs }

/-- One move of the client, already taken from `pending`. -/
def clientMove (mv : Move) (s : State) : Out :=
  match mv with
  | .elaborate p => elaborateMove p s
  | .request k ports => presentRequest ports { s with target := k }
  | .reset k => resetEvent s k

/-- The machine's step: the client's next move; with none pending every instance holds its state (R231, R253).
Log 13. -/
def takeMove (s : State) : Out :=
  match s.pending with
  | [] => .next s
  | mv :: rest => clientMove mv { s with pending := rest }

/-- The first instance that is not stuck and offers the operation, and instance 0 where there is none. Log 6. -/
def instanceOffering (s : State) (op : Op) : Nat :=
  (s.instances.findIdx? (fun inst => !inst.stuck && inst.offers op)).getD 0

/-- The instance a table word is presented to: one that offers its operation. -/
def wordTarget (s : State) (nbits w : Nat) : Nat :=
  match opOfCode (BitVec.ofNat 4 (w % 2 ^ nbits)) with
  | none => 0
  | some op => instanceOffering s op

/-- The port widths of instance `k`. -/
def shapeAt (s : State) (k : Nat) : Shape :=
  match s.instances[k]? with
  | none => tableShape
  | some inst => inst.shape

end Sys2Proof.Machine
end

