-- ==== Sys2Proof/Machine/Step.lean ====
section
/-! DEFINITION. The step, and how a word of the opcode table is put where the step takes its next request. -/

namespace Sys2Proof.Machine

/-- One step: the client's next move (R253). -/
def step (s : State) : Host.Outcome State Fault Refusal := takeMove s

/-- The request of a table word put first among the client's moves, addressed to an instance that offers it. Log 6. -/
def State.withFetchWord (s : State) (nbits w : Nat) : State :=
  let k := wordTarget s nbits w
  { s with pending := .request k (tablePorts (shapeAt s k) nbits w) :: s.pending }

end Sys2Proof.Machine
end

