-- ==== Sys2Proof/Safety.lean ====
section
/-! DEFINITION. What claims are stated in: the invariant of each instance and of the state (R21, R24, R25, R27, R36),
the contract on the tap table (R155), a run's normal end (R255), and repeated requests. -/

namespace Sys2Proof.Machine

/-- A Small engine as elaboration makes it and `NEXT` keeps it (R21, R170): its `N` is legal, its width is `SEL(N)`,
and `1 <= S < 2^N`. -/
abbrev SmallEngine.wf (pf : Platform) (e : SmallEngine) : Prop :=
  isLegalWidth e.N = true ∧ sel pf.hasU128 e.N = .ok e.W ∧ 1 ≤ e.S.toNat ∧ e.S.toNat < 2 ^ e.N

/-- `K` limbs of an admitted width with the excess bits zero (R23, R24, R27). -/
abbrev limbsWf (pf : Platform) (N L : Nat) (V : List (Limb L)) : Prop :=
  admittedLimbWidth pf.hasU128 L = true ∧ V.length = limbCount N L ∧ limbsVal V < 2 ^ N

/-- A Big engine as elaboration makes it and `NEXT` keeps it (R25, R190). -/
abbrev BigEngine.wf (pf : Platform) (e : BigEngine) : Prop :=
  isLegalWidth e.N = true ∧ limbsWf pf e.N e.L e.S ∧ 1 ≤ limbsVal e.S

/-- An MLI instance as elaboration makes it and every request keeps it (R27, R110, R112). `V` may be zero. -/
abbrev Mli.wf (pf : Platform) (m : Mli) : Prop := 1 ≤ m.N ∧ limbsWf pf m.N m.L m.V

/-- The invariant of an instance; an engine exists only on a table that passed the shape check (R156). -/
def Instance.wf (pf : Platform) : Instance → Prop
  | .small e => tapTableOk pf.taps = true ∧ e.wf pf
  | .big e => tapTableOk pf.taps = true ∧ e.wf pf
  | .mli m => m.wf pf

/-- The invariant of the state: every instance is well formed. -/
def State.Inv (s : State) : Prop := ∀ inst ∈ s.instances, inst.wf s.platform

/-- The register of an instance as a number: `S`, `val(S)` or `val(V)` (R11). -/
def Instance.value : Instance → Nat
  | .small e => e.S.toNat
  | .big e => limbsVal e.S
  | .mli m => limbsVal m.V

/-- The same parameters: only the registers may differ (R7, R34). -/
def Instance.sameParams : Instance → Instance → Prop
  | .small a, .small b => a.N = b.N ∧ a.W = b.W ∧ a.directTop = b.directTop
  | .big a, .big b => a.N = b.N ∧ a.L = b.L ∧ a.directTop = b.directTop
  | .mli a, .mli b => a.N = b.N ∧ a.L = b.L
  | _, _ => False

/-- `s_k`: the value after `k` steps of `next_N` from `s` (R178). -/
def iterNextN (N : Nat) (T : List Nat) : Nat → Nat → Nat
  | 0, s => s
  | k + 1, s => iterNextN N T k (nextN N T s)

/-- The contract of R155 for one tap set: from 1 the transition returns to 1 after exactly `2^N - 1` steps and not
before. -/
def maximalTaps (N : Nat) (T : List Nat) : Prop :=
  iterNextN N T (2 ^ N - 1) 1 = 1 ∧ ∀ k, 0 < k → k < 2 ^ N - 1 → iterNextN N T k 1 ≠ 1

/-- The same request presented `k` times to the addressed instance; a run stops at the first fault or refusal. -/
def execTimes (i : Instr) : Nat → State → Out
  | 0, s => .next s
  | k + 1, s =>
    match exec i s with
    | .next t => execTimes i k t
    | .fault r => .fault r
    | .refused r => .refused r

/-- What instance `k` answered, newest first (R255: the result of a run is the list of responses). -/
def responsesOf (k : Nat) (es : List Event) : List Response :=
  es.filterMap fun e =>
    match e with
    | .response j r => if j = k then some r else none
    | .elaborated _ => none
    | .rejected _ => none

/-- The value of a comparand given as numbers, `val(w)` of R82. -/
def numsVal (L : Nat) : List Nat → Nat
  | [] => 0
  | x :: xs => x + 2 ^ L * numsVal L xs

/-- The number of listed positions whose bit is set in `v`, counted with repetition (R119). -/
def setPositions (v : Nat) (ps : List Nat) : Nat := ps.countP (fun p => v.testBit p)

/-- The width `N` of an instance (R7). -/
def Instance.width : Instance → Nat
  | .small e => e.N
  | .big e => e.N
  | .mli m => m.N

/-- The instance is an engine: Small or Big (R6). -/
def Instance.isEngine : Instance → Bool
  | .small _ => true
  | .big _ => true
  | .mli _ => false

/-- The instance a move acts on; an elaboration acts on none that exists (R254). -/
def Move.addresses (k : Nat) : Move → Bool
  | .elaborate _ => false
  | .request j _ => j == k
  | .reset j => j == k

/-- The run of instance `k` that reached this state ended normally (R255): the client has no further move for it, its
`FAULTED` is 0, and in the whole run none of its requests faulted (a later reset event does not mend that), was without
a step or was refused. Other instances have no part in it. -/
def State.endedNormally (s : State) (k : Nat) : Prop :=
  (∀ mv ∈ s.pending, mv.addresses k = false) ∧
  (∃ inst, s.instances[k]? = some inst ∧ inst.stuck = false) ∧
  (∀ r ∈ responsesOf k s.outputs, r.status = 0#1) ∧
  ∀ m ∈ s.marks, m.index ≠ k

end Sys2Proof.Machine
end

