-- ==== Sys2Proof/Certificates/Slice0/Obligations.lean ====
section
/-! DEFINITION. The statements about the model, one `def Obligations.<Name> : Prop` each, in the order of
OBLIGATIONS.json. A statement about a request is about the addressed instance of an arbitrary state, with any platform
(any `HAS_U128`, any tap table), any other instances and any client moves. `s.answered inst r` is the state `s` with
the addressed instance become `inst`, the response `r` put out, and nothing else changed; `s.marked m` is the state `s`
with the mark `m` of a request that got neither a step nor a meaning, and nothing else changed. -/

open Sys2Proof Sys2Proof.Machine

/-! ### Reset and elaboration -/

/-- R241: the reset values of every instance, and nothing but state is reset (R240). -/
def Obligations.ResetValuesOfEveryInstance : Prop :=
  ∀ (pf : Platform) (inst : Instance), inst.wf pf →
    inst.sameParams inst.resetState ∧
    match inst.resetState with
    | .small e => e.S.toNat = 1
    | .big e =>
      e.S.length = limbCount e.N e.L ∧ limbAt e.S 0 = 1#e.L ∧ (∀ j, 1 ≤ j → limbAt e.S j = 0#e.L) ∧ limbsVal e.S = 1
    | .mli m =>
      m.V.length = limbCount m.N m.L ∧ (∀ j, limbAt m.V j = 0#m.L) ∧ limbsVal m.V = 0 ∧ m.faulted = false

/-- R240: the reset event of one instance, faulted or not, sets its whole state and changes nothing else; nothing goes
to the client (R254). -/
def Obligations.ResetEventResetsOneInstance : Prop :=
  ∀ (s : State) (k : Nat) (rest : List Move) (inst : Instance),
    s.pending = .reset k :: rest → s.instances[k]? = some inst →
    ∃ t, step s = .next t ∧ t.instances[k]? = some inst.resetState ∧ inst.sameParams inst.resetState ∧
      (∀ j, j ≠ k → t.instances[j]? = s.instances[j]?) ∧ t.instances.length = s.instances.length ∧
      t.platform = s.platform ∧ t.target = s.target ∧ t.outputs = s.outputs ∧ t.marks = s.marks ∧ t.pending = rest

/-- The invariant holds at reset, whatever the free values of the platform are. Which instances stand at reset and the
platform under them are the model's choice (logs 3, 4 and 5). -/
def Obligations.ResetMeetsInvariant : Prop := State.reset.Inv

/-- The instances that stand at reset (the model's choice, log 3) are what elaboration with the defaults of R245 makes
of their parameters. -/
def Obligations.ResetInstancesAreElaborated : Prop :=
  ∃ i0 i1 i2, State.reset.instances = [i0, i1, i2] ∧
    elaborate State.reset.platform { kind := .small, N := 3, L := none, directTopBit := none } = .ok i0 ∧
    elaborate State.reset.platform { kind := .big, N := 3, L := none, directTopBit := none } = .ok i1 ∧
    elaborate State.reset.platform { kind := .mli, N := 12, L := some 8, directTopBit := none } = .ok i2

/-- R100: `SEL(N)` is the smallest native width that holds `N` bits, 128 only with `HAS_U128`, and is rejected
elsewhere. -/
def Obligations.SelIsSmallestNativeWidth : Prop :=
  ∀ (hasU128 : Bool) (N : Nat),
    (∀ W, sel hasU128 N = .ok W ↔
      1 ≤ N ∧ W ∈ [8, 16, 32, 64, 128] ∧ N ≤ W ∧ (∀ W' ∈ [8, 16, 32, 64, 128], N ≤ W' → W ≤ W') ∧
        (W = 128 → hasU128 = true)) ∧
    ((∀ W, sel hasU128 N ≠ .ok W) → sel hasU128 N = .rejected .noNativeType)

/-- R170, R190, R110: the checks of each kind of elaboration in their order, and the defaults of R245. That the width of
an MLI instance is looked at before its limb width (`N < 1` is `E_MLI_WIDTH` whatever `L` is) is the model's reading,
log 27. -/
def Obligations.ElaborationChecksInOrder : Prop :=
  ∀ (pf : Platform) (N : Nat) (L : Option Nat) (d : Option Bool),
    ((N ∉ legalWidths →
        elaborate pf ⟨.small, N, L, d⟩ = .rejected .widthUnsupported ∧
        elaborate pf ⟨.big, N, L, d⟩ = .rejected .widthUnsupported) ∧
      (N ∈ legalWidths →
        ((∀ W, sel pf.hasU128 N ≠ .ok W) → elaborate pf ⟨.small, N, L, d⟩ = .rejected .noNativeType) ∧
        (admittedLimbWidth pf.hasU128 (L.getD 32) = false →
          elaborate pf ⟨.big, N, L, d⟩ = .rejected .limbWidth) ∧
        (∀ W, sel pf.hasU128 N = .ok W → tapTableOk pf.taps = false →
          elaborate pf ⟨.small, N, L, d⟩ = .rejected .tapDefect) ∧
        (admittedLimbWidth pf.hasU128 (L.getD 32) = true → tapTableOk pf.taps = false →
          elaborate pf ⟨.big, N, L, d⟩ = .rejected .tapDefect) ∧
        (∀ W, sel pf.hasU128 N = .ok W → tapTableOk pf.taps = true →
          elaborate pf ⟨.small, N, L, d⟩ = .ok (.small ⟨N, W, d.getD false, 1#W⟩)) ∧
        (admittedLimbWidth pf.hasU128 (L.getD 32) = true → tapTableOk pf.taps = true →
          elaborate pf ⟨.big, N, L, d⟩ = .ok (.big ⟨N, L.getD 32, d.getD false, oneLimbs N (L.getD 32)⟩)))) ∧
    (N < 1 → elaborate pf ⟨.mli, N, L, d⟩ = .rejected .mliWidth) ∧
    (1 ≤ N → admittedLimbWidth pf.hasU128 (L.getD 32) = false →
      elaborate pf ⟨.mli, N, L, d⟩ = .rejected .limbWidth) ∧
    (1 ≤ N → admittedLimbWidth pf.hasU128 (L.getD 32) = true →
      elaborate pf ⟨.mli, N, L, d⟩ = .ok (.mli ⟨N, L.getD 32, zeroLimbs N (L.getD 32), false⟩))

/-- R171, R191, R241, R245, R254: what elaboration makes meets its invariant and is in its reset state, with value 1 for
an engine and 0 for an MLI instance; and a step whose move is an elaboration adds it after the others and tells the
client its number, or adds nothing and tells the client the reason. Nothing else changes. That the machine goes on
after a rejection (log 12) and that instances are numbered (log 2) is the model's choice. -/
def Obligations.ElaboratedInstanceIsWellFormed : Prop :=
  (∀ (pf : Platform) (p : Params) (inst : Instance), elaborate pf p = .ok inst →
    inst.wf pf ∧ inst.width = p.N ∧ inst.stuck = false ∧ inst.resetState = inst ∧
      (inst.isEngine = true → inst.value = 1) ∧ (inst.isEngine = false → inst.value = 0)) ∧
  ∀ (s : State) (p : Params) (rest : List Move), s.pending = .elaborate p :: rest →
    (∀ inst, elaborate s.platform p = .ok inst →
      step s = .next { s with pending := rest, instances := s.instances ++ [inst],
                              outputs := .elaborated s.instances.length :: s.outputs }) ∧
    ∀ r, elaborate s.platform p = .rejected r →
      step s = .next { s with pending := rest, outputs := .rejected r :: s.outputs }

/-- R150, R152: the legal widths, 171 of them; the lookup and the elaboration of an engine reject every other width. -/
def Obligations.LegalWidthsAndLookup : Prop :=
  legalWidths.length = 171 ∧
  ∀ (pf : Platform) (N : Nat) (L : Option Nat) (d : Option Bool),
    (N ∈ legalWidths ↔ (3 ≤ N ∧ N ≤ 168) ∨ N ∈ [512, 768, 1024, 2048, 4096]) ∧
    (N ∈ legalWidths → taps pf.taps N = .ok (tapEntry pf.taps N)) ∧
    (N ∉ legalWidths →
      taps pf.taps N = .rejected .widthUnsupported ∧
      elaborate pf ⟨.small, N, L, d⟩ = .rejected .widthUnsupported ∧
      elaborate pf ⟨.big, N, L, d⟩ = .rejected .widthUnsupported)

/-- R151: the shape check passes exactly the tap sets. -/
def Obligations.ShapeCheckIsTapSet : Prop :=
  ∀ (N : Nat) (T : List Nat), wellFormedTaps N T = true ↔
    (T.length = 2 ∨ T.length = 4) ∧ T.Pairwise (· > ·) ∧ T.head? = some N ∧ ∀ t ∈ T, 0 < t ∧ t ≤ N

/-- R157: the tap positions start at 0, ascend strictly and are valid bit indexes. -/
def Obligations.TapPositionsAreValidIndexes : Prop :=
  ∀ (N : Nat) (T : List Nat), wellFormedTaps N T = true →
    (tapPositions N T).head? = some 0 ∧ (tapPositions N T).Pairwise (· < ·) ∧ (∀ p ∈ tapPositions N T, p < N) ∧
      (tapPositions N T).length = T.length ∧ ∀ t ∈ T, N - t ∈ tapPositions N T

/-- R153 and R151 on the table at reset: its entry for 3 is (3, 2), and whatever the free values are it passes the
shape check. That the other entries are free is the model's form of the OPEN parameter (log 4). -/
def Obligations.OpenTablePassesShapeCheck : Prop :=
  State.reset.platform.taps = openTable ∧ tapEntry openTable 3 = [3, 2] ∧ tapTableOk openTable = true

/-- R9: the constants of an instance with limbs. -/
def Obligations.DerivedConstantsOfLimbs : Prop :=
  ∀ (N L : Nat), 1 ≤ N → 1 ≤ L →
    1 ≤ limbCount N L ∧ N ≤ limbCount N L * L ∧ limbCount N L * L < N + L ∧
    (N - 1) / L = limbCount N L - 1 ∧ topOffset N L < L ∧
    excessBits N L < L ∧ excessBits N L = L - 1 - topOffset N L ∧
    (topMask N L).toNat = 2 ^ (topOffset N L + 1) - 1 ∧
    2 ^ (indexWidth N - 1) ≤ N ∧ N < 2 ^ indexWidth N

/-! ### Encoding -/

/-- R73 and R75 to R82: every row of the operation table, with its format's ports as they stand; the codes 0xC to 0xF
are reserved. -/
def Obligations.OperationTableDecodes : Prop :=
  ∀ (sh : Shape) (p : Ports),
    (p.op = 0x0#4 → decode sh p = .instr .state) ∧
    (p.op = 0x1#4 → decode sh p = .instr .next) ∧
    (p.op = 0x2#4 → decode sh p = .instr .toU64) ∧
    (p.op = 0x3#4 → p.idx < 2 ^ sh.indexWidth → decode sh p = .instr (.bit p.idx)) ∧
    (p.op = 0x4#4 → p.idx < 2 ^ sh.indexWidth → decode sh p = .instr (.setBit p.idx p.val)) ∧
    (p.op = 0x5#4 → decode sh p = .instr .popcount) ∧
    (p.op = 0x6#4 → decode sh p = .instr .complement) ∧
    (∀ ps, ps = [p.pos0, p.pos1, p.pos2, p.pos3].take p.cnt.toNat → p.cnt.toNat ≤ 4 →
      (∀ x ∈ ps, x < 2 ^ sh.indexWidth) →
      (p.op = 0x7#4 → decode sh p = .instr (.parity ps)) ∧ (p.op = 0x8#4 → decode sh p = .instr (.parityTop ps))) ∧
    (p.op = 0x9#4 → decode sh p = .instr (.shr1 p.val)) ∧
    (p.op = 0xA#4 → p.fill < 2 ^ sh.limbWidth → decode sh p = .instr (.shr1p p.fill)) ∧
    (p.op = 0xB#4 → p.w.length = sh.limbCount → (∀ x ∈ p.w, x < 2 ^ sh.limbWidth) →
      decode sh p = .instr (.equal p.w)) ∧
    (12 ≤ p.op.toNat → decode sh p = .reject .reservedOp)

/-- A few requests written out port by port from R73 to R81 decode to what they stand for (vectors V1, V20, V52, V60,
V80 and V100 of 95_test_vectors.md). -/
def Obligations.WrittenRequestsDecode : Prop :=
  decode (limbShape 12 8) ⟨0b0000#4, 0, false, 0#3, 0, 0, 0, 0, 0, [0, 0]⟩ = .instr .state ∧
  decode (limbShape 12 8) ⟨0b0001#4, 0, false, 0#3, 0, 0, 0, 0, 0, [0, 0]⟩ = .instr .next ∧
  decode (limbShape 12 8) ⟨0b0011#4, 10, false, 0#3, 0, 0, 0, 0, 0, [0, 0]⟩ = .instr (.bit 10) ∧
  decode (limbShape 12 8) ⟨0b0100#4, 10, true, 0#3, 0, 0, 0, 0, 0, [0, 0]⟩ = .instr (.setBit 10 true) ∧
  decode (limbShape 12 8) ⟨0b0111#4, 0, false, 4#3, 0, 2, 10, 11, 0, [0, 0]⟩ = .instr (.parity [0, 2, 10, 11]) ∧
  decode (limbShape 12 8) ⟨0b1001#4, 0, true, 0#3, 0, 0, 0, 0, 0, [0, 0]⟩ = .instr (.shr1 true) ∧
  decode (limbShape 12 8) ⟨0b1010#4, 0, false, 0#3, 0, 0, 0, 0, 8, [0, 0]⟩ = .instr (.shr1p 8) ∧
  decode (limbShape 12 8) ⟨0b1011#4, 0, false, 0#3, 0, 0, 0, 0, 0, [1, 4]⟩ = .instr (.equal [1, 4])

/-- Decoding the ports that spell a request gives the request back, for every request the ports can carry and every
port width. -/
def Obligations.DecodeOfEncodeIsIdentity : Prop :=
  ∀ (sh : Shape) (i : Instr), i.wf sh = true → decode sh (encode sh i) = .instr i

/-- Every accepted tuple of ports is well formed, and its significant ports are those the encoder writes. -/
def Obligations.AcceptedPortsAreTheEncoders : Prop :=
  ∀ (sh : Shape) (p : Ports) (i : Instr), decode sh p = .instr i →
    i.wf sh = true ∧ (encode sh i).op = p.op ∧
    (i.op.format = .fi ∨ i.op.format = .fiv → (encode sh i).idx = p.idx) ∧
    (i.op.format = .fiv ∨ i.op.format = .fv → (encode sh i).val = p.val) ∧
    (i.op.format = .fp → (encode sh i).cnt = p.cnt ∧ (encode sh i).positions = p.positions) ∧
    (i.op.format = .fl → (encode sh i).fill = p.fill) ∧
    (i.op.format = .fw → (encode sh i).w = p.w)

/-- R83: requests that agree on the significant ports of their format have the same outcome, results and new state. -/
def Obligations.InsignificantPortsAreIgnored : Prop :=
  ∀ (s : State) (k : Nat) (rest : List Move) (p q : Ports),
    p.op = q.op →
    (∀ op, opOfCode p.op = some op →
      (op.format = .fi ∨ op.format = .fiv → p.idx = q.idx) ∧
      (op.format = .fiv ∨ op.format = .fv → p.val = q.val) ∧
      (op.format = .fp → p.cnt = q.cnt ∧ p.positions = q.positions) ∧
      (op.format = .fl → p.fill = q.fill) ∧
      (op.format = .fw → p.w = q.w)) →
    step { s with pending := .request k p :: rest } = step { s with pending := .request k q :: rest }

/-- A step runs the decoded request: the request first among the client's moves, decoded with the widths of the
instance it addresses, is executed there, with the move taken. Where `exec` answers a next state, that is the step;
`exec` never answers a fault there; where it refuses, the run of that instance is marked and nothing else changes (the
model's choice, log 10). -/
def Obligations.StepRunsDecodedRequest : Prop :=
  ∀ (s : State) (k : Nat) (p : Ports) (rest : List Move) (inst : Instance) (i : Instr),
    s.pending = .request k p :: rest → s.instances[k]? = some inst → inst.stuck = false →
    decode inst.shape p = .instr i →
    (∀ t, exec i { s with pending := rest, target := k } = .next t → step s = .next t) ∧
    (∀ r, exec i { s with pending := rest, target := k } = .refused r →
      step s = .next (({ s with pending := rest, target := k } : State).marked (.refused k r))) ∧
    ∀ f, exec i { s with pending := rest, target := k } ≠ .fault f

/-- R86: the reserved codes and counts are refused by name, at any instance that is not stuck (for `cnt`: that offers
the parity requests). The step takes the move and marks the run of that instance with the refusal; that nothing else
changes and the machine goes on is the model's choice, log 10. -/
def Obligations.ReservedEncodingsAreRefused : Prop :=
  ∀ (s : State) (k : Nat) (p : Ports) (rest : List Move) (inst : Instance),
    s.pending = .request k p :: rest → s.instances[k]? = some inst → inst.stuck = false →
    (12 ≤ p.op.toNat →
      step s = .next (({ s with pending := rest, target := k } : State).marked (.refused k .reservedOp))) ∧
    (p.op = 0x7#4 ∨ p.op = 0x8#4 → inst.isEngine = false → 5 ≤ p.cnt.toNat →
      step s = .next (({ s with pending := rest, target := k } : State).marked (.refused k .badCnt)))

/-- R84, R85 and the first checks of R220: what an instance does not offer is refused as not offered, before any
reserved count and any index is looked at, whatever the other ports hold. The step takes the move and marks the run of
that instance with the refusal; that nothing else changes and the machine goes on is the model's choice, log 10. -/
def Obligations.NotOfferedIsRefusedFirst : Prop :=
  ∀ (s : State) (k : Nat) (p : Ports) (rest : List Move) (inst : Instance),
    s.pending = .request k p :: rest → s.instances[k]? = some inst → inst.stuck = false → p.op.toNat < 12 →
    (match inst with
      | .small _ => 2 ≤ p.op.toNat
      | .big e => 3 ≤ p.op.toNat ∨ (p.op.toNat = 2 ∧ 64 < e.N)
      | .mli _ => p.op.toNat < 2) →
    step s = .next (({ s with pending := rest, target := k } : State).marked (.refused k .notOffered))

/-! ### The requests -/

/-- R172, R192: `STATE` answers the register as it is and writes nothing. -/
def Obligations.StateAnswersTheRegister : Prop :=
  ∀ (s : State),
    (∀ e, s.instances[s.target]? = some (.small e) →
      exec .state s = .next (s.answered (.small e) (.ok (.rstate e.W e.S)))) ∧
    (∀ e, s.instances[s.target]? = some (.big e) →
      exec .state s = .next (s.answered (.big e) (.ok (.rstateLimbs e.L e.S)))) ∧
    (∀ sh (p : Ports), p.op = 0x0#4 → decode sh p = .instr .state)

/-- R173, R177: `NEXT` on a Small engine, with either strategy, always completes and leaves `next_N` of the old
value. -/
def Obligations.NextOnSmallEngine : Prop :=
  (∀ (s : State) (e : SmallEngine),
    s.instances[s.target]? = some (.small e) → tapTableOk s.platform.taps = true → e.wf s.platform →
    ∃ S' : BitVec e.W,
      exec .next s = .next (s.answered (.small { e with S := S' }) (.ok .none)) ∧
      S'.toNat = nextN e.N (tapEntry s.platform.taps e.N) e.S.toNat ∧ S'.toNat < 2 ^ e.N ∧
      ∀ i, i < e.N → S'.getLsbD i =
        if i = e.N - 1 then
          decide (setPositions e.S.toNat (tapPositions e.N (tapEntry s.platform.taps e.N)) % 2 = 1)
        else e.S.getLsbD (i + 1)) ∧
  (∀ sh (p : Ports), p.op = 0x1#4 → decode sh p = .instr .next)

/-- R194, R198: `NEXT` on a Big engine, with either strategy and any limb width, always completes and leaves `next_N`
of the old value, with the excess bits zero. -/
def Obligations.NextOnBigEngine : Prop :=
  (∀ (s : State) (e : BigEngine),
    s.instances[s.target]? = some (.big e) → tapTableOk s.platform.taps = true → e.wf s.platform →
    ∃ S' : List (Limb e.L),
      exec .next s = .next (s.answered (.big { e with S := S' }) (.ok .none)) ∧
      S'.length = limbCount e.N e.L ∧ limbsVal S' = nextN e.N (tapEntry s.platform.taps e.N) (limbsVal e.S) ∧
      limbsVal S' < 2 ^ e.N ∧
      ∀ i, i < e.N → (limbsVal S').testBit i =
        if i = e.N - 1 then
          decide (setPositions (limbsVal e.S) (tapPositions e.N (tapEntry s.platform.taps e.N)) % 2 = 1)
        else (limbsVal e.S).testBit (i + 1)) ∧
  (∀ sh (p : Ports), p.op = 0x1#4 → decode sh p = .instr .next)

/-- R127, R193: `TO_U64` is the value where it has a meaning, and is refused by name elsewhere. -/
def Obligations.ToU64IsTheValueOrRefused : Prop :=
  ∀ (s : State),
    (∀ e, s.instances[s.target]? = some (.big e) → e.wf s.platform →
      (e.N ≤ 64 → ∃ r : BitVec 64, exec .toU64 s = .next (s.answered (.big e) (.ok (.r64 r))) ∧
        r.toNat = limbsVal e.S) ∧
      (64 < e.N → exec .toU64 s = .refused .notOffered)) ∧
    (∀ m, s.instances[s.target]? = some (.mli m) → m.faulted = false → m.wf s.platform →
      (m.N ≤ 64 ∨ limbsVal m.V < 2 ^ 64 →
        ∃ r : BitVec 64, exec .toU64 s = .next (s.answered (.mli m) (.ok (.r64 r))) ∧ r.toNat = limbsVal m.V) ∧
      (64 < m.N → 2 ^ 64 ≤ limbsVal m.V → exec .toU64 s = .refused .wideU64)) ∧
    (∀ sh (p : Ports), p.op = 0x2#4 → decode sh p = .instr .toU64)

/-- R114: `BIT` answers bit `idx` of the value, or faults when `idx >= N`. -/
def Obligations.BitAnswersTheBit : Prop :=
  ∀ (s : State) (m : Mli) (idx : Nat),
    s.instances[s.target]? = some (.mli m) → m.faulted = false → m.wf s.platform →
    (idx < m.N → exec (.bit idx) s = .next (s.answered (.mli m) (.ok (.rbit ((limbsVal m.V).testBit idx))))) ∧
    (m.N ≤ idx → exec (.bit idx) s = .next (s.answered (.mli { m with faulted := true }) (.fault .index idx))) ∧
    (∀ sh (p : Ports), p.op = 0x3#4 → p.idx < 2 ^ sh.indexWidth → decode sh p = .instr (.bit p.idx))

/-- R115: `SET_BIT` writes bit `idx` and no other, touches no limb but its own, or faults and writes nothing. -/
def Obligations.SetBitWritesOneBit : Prop :=
  ∀ (s : State) (m : Mli) (idx : Nat) (val : Bool),
    s.instances[s.target]? = some (.mli m) → m.faulted = false → m.wf s.platform →
    (idx < m.N → ∃ V' : List (Limb m.L),
      exec (.setBit idx val) s = .next (s.answered (.mli { m with V := V' }) (.ok .none)) ∧
      V'.length = m.V.length ∧ (∀ j, j ≠ idx / m.L → limbAt V' j = limbAt m.V j) ∧
      ∀ i, (limbsVal V').testBit i = if i = idx then val else (limbsVal m.V).testBit i) ∧
    (m.N ≤ idx →
      exec (.setBit idx val) s = .next (s.answered (.mli { m with faulted := true }) (.fault .index idx))) ∧
    (∀ sh (p : Ports), p.op = 0x4#4 → p.idx < 2 ^ sh.indexWidth → decode sh p = .instr (.setBit p.idx p.val))

/-- R116: `POPCOUNT` answers how many of the `N` bits are set, and completes always. -/
def Obligations.PopcountCountsSetBits : Prop :=
  ∀ (s : State) (m : Mli),
    s.instances[s.target]? = some (.mli m) → m.faulted = false → m.wf s.platform →
    (∃ n, exec .popcount s = .next (s.answered (.mli m) (.ok (.rcount n))) ∧
      n = (List.range m.N).countP (fun i => (limbsVal m.V).testBit i) ∧ n ≤ m.N ∧ n < 2 ^ indexWidth m.N) ∧
    (∀ sh (p : Ports), p.op = 0x5#4 → decode sh p = .instr .popcount)

/-- R117: `COMPLEMENT` leaves `2^N - 1` minus the value, excess bits zero, and completes always. -/
def Obligations.ComplementFlipsTheValue : Prop :=
  ∀ (s : State) (m : Mli),
    s.instances[s.target]? = some (.mli m) → m.faulted = false → m.wf s.platform →
    (∃ V' : List (Limb m.L), exec .complement s = .next (s.answered (.mli { m with V := V' }) (.ok .none)) ∧
      V'.length = m.V.length ∧ limbsVal V' = 2 ^ m.N - 1 - limbsVal m.V) ∧
    (∀ sh (p : Ports), p.op = 0x6#4 → decode sh p = .instr .complement)

/-- R118: `POPCOUNT` after `COMPLEMENT` is `N` minus `POPCOUNT` before. -/
def Obligations.PopcountAfterComplement : Prop :=
  ∀ (s : State) (m : Mli),
    s.instances[s.target]? = some (.mli m) → m.faulted = false → m.wf s.platform →
    ∃ n t u, exec .popcount s = .next (s.answered (.mli m) (.ok (.rcount n))) ∧ n ≤ m.N ∧
      exec .complement s = .next t ∧ exec .popcount t = .next u ∧
      u.outputs = .response s.target (.ok (.rcount (m.N - n))) :: t.outputs

/-- R119: `PARITY` answers 1 exactly when an odd number of the listed bits are set, counted with repetition; the first
position out of range in list order faults. -/
def Obligations.ParityIsOddCount : Prop :=
  ∀ (s : State) (m : Mli) (ps : List Nat),
    s.instances[s.target]? = some (.mli m) → m.faulted = false → m.wf s.platform →
    ((∀ p ∈ ps, p < m.N) → exec (.parity ps) s =
      .next (s.answered (.mli m) (.ok (.rbit (decide (setPositions (limbsVal m.V) ps % 2 = 1)))))) ∧
    (∀ pre p post, ps = pre ++ p :: post → (∀ q ∈ pre, q < m.N) → m.N ≤ p →
      exec (.parity ps) s = .next (s.answered (.mli { m with faulted := true }) (.fault .index p))) ∧
    (∀ sh (q : Ports), q.op = 0x7#4 → q.cnt.toNat ≤ 4 → (∀ x ∈ q.positions, x < 2 ^ sh.indexWidth) →
      decode sh q = .instr (.parity q.positions))

/-- R120: `PARITY_TOP` answers the parity at offset `M`: 0 or `2^M`. -/
def Obligations.ParityTopIsShiftedParity : Prop :=
  ∀ (s : State) (m : Mli) (ps : List Nat),
    s.instances[s.target]? = some (.mli m) → m.faulted = false → m.wf s.platform →
    ((∀ p ∈ ps, p < m.N) → ∃ f : Limb m.L,
      exec (.parityTop ps) s = .next (s.answered (.mli m) (.ok (.rlimb m.L f))) ∧
      f.toNat = (setPositions (limbsVal m.V) ps % 2) * 2 ^ topOffset m.N m.L) ∧
    (∀ pre p post, ps = pre ++ p :: post → (∀ q ∈ pre, q < m.N) → m.N ≤ p →
      exec (.parityTop ps) s = .next (s.answered (.mli { m with faulted := true }) (.fault .index p))) ∧
    (∀ sh (q : Ports), q.op = 0x8#4 → q.cnt.toNat ≤ 4 → (∀ x ∈ q.positions, x < 2 ^ sh.indexWidth) →
      decode sh q = .instr (.parityTop q.positions))

/-- R121, R122: the chain form of the pre-shifted parity is the parity shifted to offset `M`, for every limb array and
every list of positions in range. -/
def Obligations.ParityChainIsShiftedParity : Prop :=
  ∀ (N L : Nat) (V : List (Limb L)) (ps : List Nat), 1 ≤ N → 1 ≤ L → (∀ p ∈ ps, p < N) →
    parityTopChain N V ps = bitWord L (parityAt V ps) <<< topOffset N L ∧
    parityTopAt N V ps = bitWord L (parityAt V ps) <<< topOffset N L

/-- R123: `SHR1` leaves half the value with the boolean at bit `N - 1`, and completes always. -/
def Obligations.Shr1HalvesAndFills : Prop :=
  ∀ (s : State) (m : Mli) (val : Bool),
    s.instances[s.target]? = some (.mli m) → m.faulted = false → m.wf s.platform →
    (∃ V' : List (Limb m.L), exec (.shr1 val) s = .next (s.answered (.mli { m with V := V' }) (.ok .none)) ∧
      V'.length = m.V.length ∧ limbsVal V' = limbsVal m.V / 2 + val.toNat * 2 ^ (m.N - 1)) ∧
    (∀ sh (p : Ports), p.op = 0x9#4 → decode sh p = .instr (.shr1 p.val))

/-- R124: `SHR1P` with fill 0 or `2^M` is the same shift; any other fill is refused. -/
def Obligations.Shr1pTakesPositionedFill : Prop :=
  ∀ (s : State) (m : Mli) (fill : Nat),
    s.instances[s.target]? = some (.mli m) → m.faulted = false → m.wf s.platform →
    (fill = 0 ∨ fill = 2 ^ topOffset m.N m.L → ∃ V' : List (Limb m.L),
      exec (.shr1p fill) s = .next (s.answered (.mli { m with V := V' }) (.ok .none)) ∧
      V'.length = m.V.length ∧
      limbsVal V' = limbsVal m.V / 2 + (fill / 2 ^ topOffset m.N m.L) * 2 ^ (m.N - 1)) ∧
    (fill ≠ 0 → fill ≠ 2 ^ topOffset m.N m.L → exec (.shr1p fill) s = .refused .badFill) ∧
    (∀ sh (p : Ports), p.op = 0xA#4 → p.fill < 2 ^ sh.limbWidth → decode sh p = .instr (.shr1p p.fill))

/-- R125: the two shift variants agree, and so do `PARITY` then `SHR1` and `PARITY_TOP` then `SHR1P`. -/
def Obligations.ShiftVariantsAgree : Prop :=
  ∀ (s : State) (m : Mli),
    s.instances[s.target]? = some (.mli m) → m.faulted = false → m.wf s.platform →
    (∀ b : Bool, ∃ u u', exec (.shr1 b) s = .next u ∧
      exec (.shr1p (bitWord m.L b <<< topOffset m.N m.L).toNat) s = .next u' ∧ u.instances = u'.instances) ∧
    (∀ ps, (∀ p ∈ ps, p < m.N) → ∃ (b : Bool) (f : Limb m.L) (t t' u u' : State),
      exec (.parity ps) s = .next t ∧ t.outputs = .response s.target (.ok (.rbit b)) :: s.outputs ∧
      exec (.parityTop ps) s = .next t' ∧ t'.outputs = .response s.target (.ok (.rlimb m.L f)) :: s.outputs ∧
      exec (.shr1 b) t = .next u ∧ exec (.shr1p f.toNat) t' = .next u' ∧ u.instances = u'.instances)

/-- R126: a bit set in a zero value moves down one place under `SHR1 0` (bit 0 is lost), and an all-ones value shifted
`N` times is zero. -/
def Obligations.ShiftRoundTripLaws : Prop :=
  ∀ (s : State) (m : Mli),
    s.instances[s.target]? = some (.mli m) → m.faulted = false → m.wf s.platform →
    (∀ i, i < m.N → limbsVal m.V = 0 → ∃ t u m', exec (.setBit i true) s = .next t ∧
      exec (.shr1 false) t = .next u ∧ u.instances[s.target]? = some (.mli m') ∧
      limbsVal m'.V = if i = 0 then 0 else 2 ^ (i - 1)) ∧
    (limbsVal m.V = 2 ^ m.N - 1 → ∃ u m', execTimes (.shr1 false) m.N s = .next u ∧
      u.instances[s.target]? = some (.mli m') ∧ limbsVal m'.V = 0)

/-- R128: `EQ` answers whether the values are equal; a comparand with an excess bit set is refused. -/
def Obligations.EqualComparesValues : Prop :=
  ∀ (s : State) (m : Mli) (w : List Nat),
    s.instances[s.target]? = some (.mli m) → m.faulted = false → m.wf s.platform →
    w.length = limbCount m.N m.L → (∀ x ∈ w, x < 2 ^ m.L) →
    (w.getD (limbCount m.N m.L - 1) 0 < 2 ^ (topOffset m.N m.L + 1) →
      exec (.equal w) s = .next (s.answered (.mli m) (.ok (.rbit (decide (limbsVal m.V = numsVal m.L w)))))) ∧
    (2 ^ (topOffset m.N m.L + 1) ≤ w.getD (limbCount m.N m.L - 1) 0 → exec (.equal w) s = .refused .badOperand) ∧
    (∀ sh (p : Ports), p.op = 0xB#4 → p.w.length = sh.limbCount → (∀ x ∈ p.w, x < 2 ^ sh.limbWidth) →
      decode sh p = .instr (.equal p.w))

/-! ### The fault -/

/-- R216, R217: the fault writes nothing but `FAULTED`, with `status = 1`, `cause = 1` and the first offending index
as `info`. -/
def Obligations.IndexFaultIsTaken : Prop :=
  (∀ (s : State) (m : Mli), s.instances[s.target]? = some (.mli m) → m.faulted = false →
    (∀ idx, m.N ≤ idx → ∀ i ∈ [Instr.bit idx, .setBit idx false, .setBit idx true],
      exec i s = .next (s.answered (.mli { m with faulted := true }) (.fault .index idx))) ∧
    (∀ pre p post, (∀ q ∈ pre, q < m.N) → m.N ≤ p →
      ∀ i ∈ [Instr.parity (pre ++ p :: post), .parityTop (pre ++ p :: post)],
        exec i s = .next (s.answered (.mli { m with faulted := true }) (.fault .index p)))) ∧
  (∀ info, (Response.fault .index info).status = 1#1) ∧ FaultCause.index.code = 1#4

/-- R218, R219: only `BIT`, `SET_BIT`, `PARITY` and `PARITY_TOP` on an MLI instance fault, and then with `V` as it was
and `FAULTED` set. -/
def Obligations.OnlyIndexRequestsFault : Prop :=
  ∀ (s t : State) (i : Instr) (c : FaultCause) (info : Nat),
    exec i s = .next t → t.outputs = .response s.target (.fault c info) :: s.outputs →
    i.op ∈ [Op.bit, .setBit, .parity, .parityTop] ∧
    ∃ m, s.instances[s.target]? = some (.mli m) ∧ m.N ≤ info ∧
      t.instances[s.target]? = some (.mli { m with faulted := true })

/-- R221, R255: a request of any kind to a faulted MLI instance has no step, whatever its ports hold: no response goes
out, `V` and `FAULTED` and every other instance stay, and the run of that instance has not ended normally. That the
machine takes the request, marks that run and goes on is the model's choice, log 9. -/
def Obligations.FaultedInstanceIsStuck : Prop :=
  ∀ (s : State) (k : Nat) (p : Ports) (rest : List Move) (m : Mli),
    s.pending = .request k p :: rest → s.instances[k]? = some (.mli m) → m.faulted = true →
    (∀ i, exec i { s with target := k } = .fault .stuck) ∧
    ∃ t, step s = .next t ∧ t = ({ s with pending := rest, target := k } : State).marked (.noStep k) ∧
      t.instances = s.instances ∧ t.outputs = s.outputs ∧ ¬ t.endedNormally k

/-- R222: a faulted instance stays as it is through every step but its own reset event, which also returns `V` to
zero. -/
def Obligations.OnlyResetClearsFaulted : Prop :=
  ∀ (s t : State) (k : Nat) (m : Mli), step s = .next t → s.instances[k]? = some (.mli m) → m.faulted = true →
    t.instances[k]? = some (.mli m) ∨
    ((∃ rest, s.pending = .reset k :: rest) ∧
      t.instances[k]? = some (.mli { m with V := zeroLimbs m.N m.L, faulted := false }))

/-! ### Frames, order and independence -/

/-- What a request leaves unchanged: the platform, the client's moves, the marks of earlier requests, every other
instance, the parameters of the addressed one; exactly one response goes out (R56, R58, R72). -/
def Obligations.RequestFrame : Prop :=
  ∀ (i : Instr) (s t : State), exec i s = .next t →
    t.platform = s.platform ∧ t.target = s.target ∧ t.pending = s.pending ∧ t.marks = s.marks ∧
    t.instances.length = s.instances.length ∧ (∀ k, k ≠ s.target → t.instances[k]? = s.instances[k]?) ∧
    (∃ r, t.outputs = .response s.target r :: s.outputs) ∧
    ∃ inst inst', s.instances[s.target]? = some inst ∧ t.instances[s.target]? = some inst' ∧ inst.sameParams inst'

/-- R56: the reading requests have no side effect and answer the same when repeated. -/
def Obligations.ReadingRequestsChangeNothing : Prop :=
  ∀ (i : Instr) (s t : State) (r : Result),
    i.op ∈ [Op.state, .bit, .popcount, .parity, .parityTop, .toU64, .equal] →
    exec i s = .next t → t.outputs = .response s.target (.ok r) :: s.outputs →
    t.instances = s.instances ∧
    ∃ u, exec i t = .next u ∧ u.instances = s.instances ∧ u.outputs = .response s.target (.ok r) :: t.outputs

/-- R57, R34: the outcome of a request depends only on the platform, the addressed instance and the request. -/
def Obligations.OutcomeDependsOnInstanceAlone : Prop :=
  ∀ (i : Instr) (s s' : State),
    s.platform = s'.platform → s.instances[s.target]? = s'.instances[s'.target]? →
    match exec i s, exec i s' with
    | .next t, .next t' =>
      t.instances[s.target]? = t'.instances[s'.target]? ∧
      ∃ r, t.outputs = .response s.target r :: s.outputs ∧ t'.outputs = .response s'.target r :: s'.outputs
    | .fault a, .fault b => a = b
    | .refused a, .refused b => a = b
    | _, _ => False

/-- R58: requests to different instances commute: in either order the instances end the same and each has given the
same responses. -/
def Obligations.RequestsToDifferentInstancesCommute : Prop :=
  ∀ (s t u : State) (i i' : Instr) (j k : Nat), j ≠ k →
    exec i { s with target := j } = .next t → exec i' { t with target := k } = .next u →
    ∃ t' u', exec i' { s with target := k } = .next t' ∧ exec i { t' with target := j } = .next u' ∧
      u'.instances = u.instances ∧ u'.platform = u.platform ∧
      ∀ n, responsesOf n u'.outputs = responsesOf n u.outputs

/-- R7, R240: no step changes the platform or the parameters of an instance, and none removes an instance. R255: none
takes back a response or a mark, so a run in which a request faulted, had no step or was refused has not ended
normally after it, not even when a reset event came in between. -/
def Obligations.ParametersNeverChange : Prop :=
  ∀ (s t : State), step s = .next t →
    t.platform = s.platform ∧
    (∀ (k : Nat) (inst : Instance), s.instances[k]? = some inst →
      ∃ inst', t.instances[k]? = some inst' ∧ inst.sameParams inst') ∧
    (∃ es, t.outputs = es ++ s.outputs) ∧ (∃ ms, t.marks = ms ++ s.marks) ∧
    ∀ k, (∃ r ∈ responsesOf k s.outputs, r.status = 1#1) ∨ (∃ m ∈ s.marks, m.index = k) → ¬ t.endedNormally k

/-- R20, R23: an engine's register is written by `NEXT` and by reset alone. -/
def Obligations.EngineChangesOnlyByNextOrReset : Prop :=
  ∀ (s t : State) (k : Nat) (inst : Instance), step s = .next t → s.instances[k]? = some inst →
    inst.isEngine = true →
    t.instances[k]? = some inst ∨ (∃ rest, s.pending = .reset k :: rest) ∨
      ∃ p rest, s.pending = .request k p :: rest ∧ p.op = 0x1#4

/-- R35: a duplicate has the same parameters and state, and a request to either leaves the other as it is. (That
copying is no move of a step is the model's reading, log 21.) -/
def Obligations.DuplicateEvolvesIndependently : Prop :=
  ∀ (s : State) (k : Nat) (inst : Instance), s.instances[k]? = some inst →
    (s.duplicate k).instances[s.instances.length]? = some inst ∧
    (s.duplicate k).platform = s.platform ∧
    (∀ j, j < s.instances.length → (s.duplicate k).instances[j]? = s.instances[j]?) ∧
    (∀ i t, exec i { s.duplicate k with target := k } = .next t →
      t.instances[s.instances.length]? = some inst) ∧
    (∀ i t, exec i { s.duplicate k with target := s.instances.length } = .next t →
      t.instances[k]? = some inst)

/-- With no move pending a step changes nothing: an instance between requests holds its state (R231). That this is a
next state is the model's choice (log 13). -/
def Obligations.NoMoveChangesNothing : Prop := ∀ s : State, s.pending = [] → step s = .next s

/-! ### The invariant -/

/-- R21, R24, R25, R112, R199: every step keeps the invariant: legal parameters, `1 <= S < 2^N` in every engine, `K`
limbs with excess bits zero in every limb array. -/
def Obligations.StepKeepsInvariant : Prop := ∀ s t : State, s.Inv → step s = .next t → t.Inv

/-! ### The transition and the engines -/

/-- R176, with R174 and R175: the two strategies of the Small engine are the same function, `next_N`. -/
def Obligations.SmallStrategiesAreNextN : Prop :=
  ∀ (N W : Nat) (T : List Nat) (S : BitVec W), wellFormedTaps N T = true → N ≤ W → S.toNat < 2 ^ N →
    smallStepA N T S = smallStepB N T S ∧ (smallStepA N T S).toNat = nextN N T S.toNat

/-- R197, with R195 and R196: the two strategies of the Big engine leave the same limb array, whose value is `next_N`
of the old value. -/
def Obligations.BigStrategiesAreNextN : Prop :=
  ∀ (N L : Nat) (T : List Nat) (S : List (Limb L)), wellFormedTaps N T = true → 1 ≤ L →
    S.length = limbCount N L → limbsVal S < 2 ^ N →
    bigStepA N T S = bigStepB N T S ∧ limbsVal (bigStepA N T S) = nextN N T (limbsVal S)

/-- R200: from reset, after any number of `NEXT` requests, a Small and a Big engine of one width hold the same number,
with any limb width and any strategy on either side; for `N <= 64` the Big engine's `TO_U64` answers it. -/
def Obligations.SmallAndBigAgreeAtEveryStep : Prop :=
  ∀ (s s' : State) (e : SmallEngine) (e' : BigEngine) (k : Nat),
    s.platform = s'.platform → tapTableOk s.platform.taps = true → e.wf s.platform → e'.wf s'.platform →
    e.N = e'.N → e.S.toNat = 1 → limbsVal e'.S = 1 →
    s.instances[s.target]? = some (.small e) → s'.instances[s'.target]? = some (.big e') →
    ∃ t t' S S', execTimes .next k s = .next t ∧ execTimes .next k s' = .next t' ∧
      t.instances[s.target]? = some (.small { e with S := S }) ∧
      t'.instances[s'.target]? = some (.big { e' with S := S' }) ∧
      S.toNat = limbsVal S' ∧ S.toNat = iterNextN e.N (tapEntry s.platform.taps e.N) k 1 ∧
      (e.N ≤ 64 → ∃ (r : BitVec 64) (u : State), exec .toU64 t' = .next u ∧ r.toNat = S.toNat ∧
        u.outputs = .response s'.target (.ok (.r64 r)) :: t'.outputs)

/-- R201: Big engines of one width and different limb widths hold the same number after the same number of `NEXT`
requests. -/
def Obligations.ValueIndependentOfLimbWidth : Prop :=
  ∀ (s s' : State) (e e' : BigEngine) (k : Nat),
    s.platform = s'.platform → tapTableOk s.platform.taps = true → e.wf s.platform → e'.wf s'.platform →
    e.N = e'.N → limbsVal e.S = limbsVal e'.S →
    s.instances[s.target]? = some (.big e) → s'.instances[s'.target]? = some (.big e') →
    ∃ t t' S S', execTimes .next k s = .next t ∧ execTimes .next k s' = .next t' ∧
      t.instances[s.target]? = some (.big { e with S := S }) ∧
      t'.instances[s'.target]? = some (.big { e' with S := S' }) ∧ limbsVal S = limbsVal S'

/-- R179: `next_N` is 0 only at 0, so from 1 the value 0 is never reached; this needs the shape of the tap set alone. -/
def Obligations.ZeroIsNeverReached : Prop :=
  ∀ (N : Nat) (T : List Nat), wellFormedTaps N T = true →
    (∀ s, s < 2 ^ N → (nextN N T s = 0 ↔ s = 0)) ∧ ∀ k, iterNextN N T k 1 ≠ 0

/-- R180: the transition is a bijection on `N`-bit values, the old state is recovered from the new one, and the
sequence from 1 returns to 1, for any well-formed tap set. -/
def Obligations.TransitionIsBijective : Prop :=
  ∀ (N : Nat) (T : List Nat), wellFormedTaps N T = true →
    (∀ s, s < 2 ^ N → nextN N T s < 2 ^ N ∧
      (∀ i, 1 ≤ i → i ≤ N - 1 → s.testBit i = (nextN N T s).testBit (i - 1)) ∧
      s.testBit 0 = ((nextN N T s).testBit (N - 1) ^^
        decide (setPositions (nextN N T s) (T.tail.map (fun t => N - t - 1)) % 2 = 1))) ∧
    (∀ s r, s < 2 ^ N → r < 2 ^ N → nextN N T s = nextN N T r → s = r) ∧
    (∀ r, r < 2 ^ N → ∃ s, s < 2 ^ N ∧ nextN N T s = r) ∧
    (∃ k, 1 ≤ k ∧ iterNextN N T k 1 = 1)

/-- R158: bit 0 of the states obeys the linear recurrence of the tap set. (R158 marks the formula as general
knowledge; here it is a consequence of R173.) -/
def Obligations.BitZeroObeysTheRecurrence : Prop :=
  ∀ (N : Nat) (T : List Nat) (s k : Nat), wellFormedTaps N T = true → s < 2 ^ N →
    (iterNextN N T (k + N) s).testBit 0 =
      decide (T.countP (fun t => (iterNextN N T (k + N - t) s).testBit 0) % 2 = 1)

/-- R178 and, for the Big engine, R199 (which the spec derives), under the contract of R155 on the tap set: repeated
`NEXT` requests from reset visit every non-zero `N`-bit value exactly once before the state is 1 again, on a Small and
on a Big engine. -/
def Obligations.PeriodIsMaximal : Prop :=
  ∀ (s : State) (inst : Instance), s.instances[s.target]? = some inst → inst.isEngine = true →
    inst.wf s.platform → inst.value = 1 → maximalTaps inst.width (tapEntry s.platform.taps inst.width) →
    ∃ v : Nat → Nat,
      (∀ k, ∃ t inst', execTimes .next k s = .next t ∧ t.instances[s.target]? = some inst' ∧
        inst.sameParams inst' ∧ inst'.value = v k) ∧
      v 0 = 1 ∧ v (2 ^ inst.width - 1) = 1 ∧ (∀ k, 1 ≤ v k ∧ v k < 2 ^ inst.width) ∧
      (∀ j k, j < k → k < 2 ^ inst.width - 1 → v j ≠ v k) ∧
      ∀ x, 1 ≤ x → x < 2 ^ inst.width → ∃ k, k < 2 ^ inst.width - 1 ∧ v k = x

/-- R243: after a reset event an engine's sequence starts again: `n` `NEXT` requests leave `s_n`, whatever happened
before. -/
def Obligations.ResetRestartsTheSequence : Prop :=
  ∀ (s : State) (k : Nat) (rest : List Move) (inst : Instance),
    s.pending = .reset k :: rest → s.instances[k]? = some inst → inst.isEngine = true → inst.wf s.platform →
    ∃ t, step s = .next t ∧ ∀ n, ∃ u inst', execTimes .next n { t with target := k } = .next u ∧
      u.instances[k]? = some inst' ∧
      inst'.value = iterNextN inst.width (tapEntry s.platform.taps inst.width) n 1

/-- R183, R203: the full cycle of `N = 3` with `TAPS(3) = (3, 2)`, on the Small and on the Big engine that stand at
reset (the model's choice, log 3), and that this tap set meets the contract of R155. -/
def Obligations.FullCycleOfWidthThree : Prop :=
  maximalTaps 3 [3, 2] ∧
  ∀ j, j < 2 → ∀ k, k < 8 → ∃ t inst, execTimes .next k { State.reset with target := j } = .next t ∧
    t.instances[j]? = some inst ∧ inst.value = [1, 4, 2, 5, 6, 7, 3, 1].getD k 0
end

