-- ==== Sys2Proof/Laws/State.lean ====
section
/-! SUPPORT. One lemma per field per update of the state, so that no proof unfolds a record update. -/

namespace Sys2Proof.Machine

section answered
variable (s : State) (inst : Instance) (r : Response)

@[simp] theorem State.answered_platform : (s.answered inst r).platform = s.platform := rfl
@[simp] theorem State.answered_instances : (s.answered inst r).instances = s.instances.set s.target inst := rfl
@[simp] theorem State.answered_target : (s.answered inst r).target = s.target := rfl
@[simp] theorem State.answered_pending : (s.answered inst r).pending = s.pending := rfl
@[simp] theorem State.answered_outputs :
    (s.answered inst r).outputs = .response s.target r :: s.outputs := rfl
@[simp] theorem State.answered_marks : (s.answered inst r).marks = s.marks := rfl

end answered

section marked
variable (s : State) (m : Mark)

@[simp] theorem State.marked_platform : (s.marked m).platform = s.platform := rfl
@[simp] theorem State.marked_instances : (s.marked m).instances = s.instances := rfl
@[simp] theorem State.marked_target : (s.marked m).target = s.target := rfl
@[simp] theorem State.marked_pending : (s.marked m).pending = s.pending := rfl
@[simp] theorem State.marked_outputs : (s.marked m).outputs = s.outputs := rfl
@[simp] theorem State.marked_marks : (s.marked m).marks = m :: s.marks := rfl

end marked

@[simp] theorem mark_noStep_index (k : Nat) : (Mark.noStep k).index = k := rfl
@[simp] theorem mark_refused_index (k : Nat) (r : Refusal) : (Mark.refused k r).index = k := rfl

section raiseFaulted
variable (m : Mli)

@[simp] theorem raiseFaulted_N : (raiseFaulted m).N = m.N := rfl
@[simp] theorem raiseFaulted_L : (raiseFaulted m).L = m.L := rfl
@[simp] theorem raiseFaulted_V : (raiseFaulted m).V = m.V := rfl
@[simp] theorem raiseFaulted_faulted : (raiseFaulted m).faulted = true := rfl

end raiseFaulted

section resetState

@[simp] theorem resetState_small (e : SmallEngine) : Instance.resetState (.small e) = .small { e with S := 1#e.W } := rfl
@[simp] theorem resetState_big (e : BigEngine) :
    Instance.resetState (.big e) = .big { e with S := oneLimbs e.N e.L } := rfl
@[simp] theorem resetState_mli (m : Mli) :
    Instance.resetState (.mli m) = .mli { m with V := zeroLimbs m.N m.L, faulted := false } := rfl

end resetState

section withFetchWord
variable (s : State) (n w : Nat)

@[simp] theorem withFetchWord_platform : (s.withFetchWord n w).platform = s.platform := rfl
@[simp] theorem withFetchWord_instances : (s.withFetchWord n w).instances = s.instances := rfl
@[simp] theorem withFetchWord_target : (s.withFetchWord n w).target = s.target := rfl
@[simp] theorem withFetchWord_outputs : (s.withFetchWord n w).outputs = s.outputs := rfl
@[simp] theorem withFetchWord_marks : (s.withFetchWord n w).marks = s.marks := rfl
@[simp] theorem withFetchWord_pending :
    (s.withFetchWord n w).pending =
      .request (wordTarget s n w) (tablePorts (shapeAt s (wordTarget s n w)) n w) :: s.pending := rfl

end withFetchWord

@[simp] theorem stuck_small (e : SmallEngine) : (Instance.small e).stuck = false := rfl
@[simp] theorem stuck_big (e : BigEngine) : (Instance.big e).stuck = false := rfl
@[simp] theorem stuck_mli (m : Mli) : (Instance.mli m).stuck = m.faulted := rfl

section byKind
variable (a b c : Bool)

@[simp] theorem byKind_small (e : SmallEngine) : (Instance.small e).byKind a b c = a := rfl
@[simp] theorem byKind_big (e : BigEngine) : (Instance.big e).byKind a b c = b := rfl
@[simp] theorem byKind_mli (m : Mli) : (Instance.mli m).byKind a b c = c := rfl
@[simp] theorem fits64_big (e : BigEngine) : (Instance.big e).fits64 = decide (e.N ≤ 64) := rfl

end byKind

end Sys2Proof.Machine
end

