-- ==== Sys2Proof/Laws/Ops.lean ====
section
/-! SUPPORT. What each shared operation of Machine/Ops.lean can do, said once: what it answers when its checks pass,
and, from a next state, everything that may have changed. Provers cite these instead of unfolding the operations. -/

namespace Sys2Proof.Machine

/-- The position check passes when every position is below `N` (R113). -/
theorem firstOutOfRange_none {N : Nat} {ps : List Nat} : firstOutOfRange N ps = none ↔ ∀ p ∈ ps, p < N := by
  simp [firstOutOfRange]

/-- The position it reports is out of range, and every one before it is in range (R217, R220). -/
theorem firstOutOfRange_some {N p : Nat} {ps : List Nat} :
    firstOutOfRange N ps = some p ↔ N ≤ p ∧ ∃ pre post, ps = pre ++ p :: post ∧ ∀ q ∈ pre, q < N := by
  simp [firstOutOfRange, List.find?_eq_some_iff_append]

/-- An addressed instance that is not stuck and offers the operation is served (R220). -/
theorem serve_ready {op : Op} {s : State} {inst : Instance} (f : Instance → Out)
    (ht : s.instances[s.target]? = some inst) (hs : inst.stuck = false) (ho : inst.offers op = true) :
    serve op s f = f inst := by simp [serve, ht, hs, ho]

/-- A stuck instance has no step (R221). -/
theorem serve_stuck {op : Op} {s : State} {inst : Instance} (f : Instance → Out)
    (ht : s.instances[s.target]? = some inst) (hs : inst.stuck = true) : serve op s f = .fault .stuck := by
  simp [serve, ht, hs]

/-- An operation that is not offered is refused (R85). -/
theorem serve_notOffered {op : Op} {s : State} {inst : Instance} (f : Instance → Out)
    (ht : s.instances[s.target]? = some inst) (hs : inst.stuck = false) (ho : inst.offers op = false) :
    serve op s f = .refused .notOffered := by simp [serve, ht, hs, ho]

/-- A next state comes from the meaning at an addressed instance that is not stuck and offers the operation. -/
theorem serve_next {op : Op} {s t : State} {f : Instance → Out} (h : serve op s f = .next t) :
    ∃ inst, s.instances[s.target]? = some inst ∧ inst.stuck = false ∧ inst.offers op = true ∧ f inst = .next t := by
  unfold serve at h
  cases ht : s.instances[s.target]? with
  | none => simp [ht] at h
  | some inst =>
    simp only [ht] at h
    cases hs : inst.stuck <;> simp only [hs, if_true, if_false, Bool.false_eq_true] at h
    · cases ho : inst.offers op <;> simp only [ho, if_true, if_false, Bool.false_eq_true] at h
      · cases h
      · exact ⟨inst, rfl, hs, ho, h⟩
    · cases h

/-- The outcome is a next state or a refusal for one of the spec's reasons: no fault, no reason of the model's own. -/
def Answers (o : Out) : Prop := (∃ t, o = .next t) ∨ ∃ r, o = .refused r ∧ r.code ≠ 0

theorem answers_next (t : State) : Answers (.next t) := .inl ⟨t, rfl⟩
theorem answers_refused {r : Refusal} (h : r.code ≠ 0) : Answers (.refused r) := .inr ⟨r, rfl, h⟩
theorem answers_answer (s : State) (inst : Instance) (r : Result) : Answers (answer s inst r) := answers_next _

/-- At an instance that is not stuck `serve` answers, if the meaning does. -/
theorem serve_answers {op : Op} {s : State} {inst : Instance} {f : Instance → Out}
    (ht : s.instances[s.target]? = some inst) (hs : inst.stuck = false) (hf : Answers (f inst)) :
    Answers (serve op s f) := by
  cases ho : inst.offers op
  · rw [serve_notOffered f ht hs ho]
    exact answers_refused (by decide)
  · rwa [serve_ready f ht hs ho]

theorem onMli_answers {f : Mli → Out} (inst : Instance) (hf : ∀ m, Answers (f m)) : Answers (onMli f inst) := by
  cases inst with
  | mli m => exact hf m
  | small e => exact answers_refused (by decide)
  | big e => exact answers_refused (by decide)

theorem checkIndexes_answers {s : State} {m : Mli} {ps : List Nat} {ok : Out} (h : Answers ok) :
    Answers (checkIndexes s m ps ok) := by
  unfold checkIndexes
  split
  · exact answers_next _
  · exact h

/-- An MLI meaning runs at an MLI instance alone. -/
theorem onMli_next {f : Mli → Out} {inst : Instance} {t : State} (h : onMli f inst = .next t) :
    ∃ m, inst = .mli m ∧ f m = .next t := by
  cases inst with
  | mli m => exact ⟨m, rfl, h⟩
  | small e => cases h
  | big e => cases h

/-- The index check passes to the meaning, or takes the fault at the first position out of range (R113, R216). -/
theorem checkIndexes_next {s t : State} {m : Mli} {ps : List Nat} {ok : Out}
    (h : checkIndexes s m ps ok = .next t) :
    ((∀ p ∈ ps, p < m.N) ∧ ok = .next t) ∨
    (∃ p, firstOutOfRange m.N ps = some p ∧ t = s.answered (.mli (raiseFaulted m)) (.fault .index p)) := by
  unfold checkIndexes at h
  cases hf : firstOutOfRange m.N ps with
  | none => exact .inl ⟨firstOutOfRange_none.1 hf, by simpa [hf] using h⟩
  | some p =>
    simp only [hf, takeIndexFault] at h
    cases h
    exact .inr ⟨p, rfl, rfl⟩

theorem checkIndexes_inRange {s : State} {m : Mli} {ps : List Nat} (ok : Out) (h : ∀ p ∈ ps, p < m.N) :
    checkIndexes s m ps ok = ok := by simp [checkIndexes, firstOutOfRange_none.2 h]

theorem checkIndexes_outOfRange {s : State} {m : Mli} {ps : List Nat} {p : Nat} (ok : Out)
    (h : firstOutOfRange m.N ps = some p) :
    checkIndexes s m ps ok = .next (s.answered (.mli (raiseFaulted m)) (.fault .index p)) := by
  simp [checkIndexes, h, takeIndexFault]

/-- Answering is a next state. -/
theorem answer_next {s t : State} {inst : Instance} {r : Result} :
    answer s inst r = .next t ↔ t = s.answered inst (.ok r) := by
  simp [answer, eq_comm]

/-- The reset event changes the addressed instance alone (R240). -/
theorem resetEvent_next {s t : State} {k : Nat} (h : resetEvent s k = .next t) :
    ∃ inst, s.instances[k]? = some inst ∧ t = { s with instances := s.instances.set k inst.resetState } := by
  unfold resetEvent at h
  cases hk : s.instances[k]? with
  | none => simp [hk] at h
  | some inst =>
    simp only [hk] at h
    cases h
    exact ⟨inst, rfl, rfl⟩

/-- Every fill `SHR1P` accepts is 0 or `2^M` (R124). -/
theorem positionedFill_some {N L fill : Nat} {f : Limb L} :
    positionedFill N L fill = some f ↔ (fill = 0 ∨ fill = 2 ^ topOffset N L) ∧ f = BitVec.ofNat L fill := by
  unfold positionedFill
  split
  · simp_all [eq_comm]
  · simp_all

end Sys2Proof.Machine
end

