-- ==== Sys2Proof/Laws/Exec.lean ====
section
/-! SUPPORT. Everything a request can do when it answers a next state: the addressed instance is replaced by one of the
listed forms and one response goes out. Every frame and invariant over `exec` starts here. -/

namespace Sys2Proof.Machine

/-- What the addressed instance and the response may be after a request (one line per way of ending, R114 to R128,
R172 to R175, R192 to R196, R216). -/
inductive Served (s : State) : Instr → Instance → Instance → Response → Prop
  | stateSmall (e) : Served s .state (.small e) (.small e) (.ok (.rstate e.W e.S))
  | stateBig (e) : Served s .state (.big e) (.big e) (.ok (.rstateLimbs e.L e.S))
  | nextSmall (e) : Served s .next (.small e)
      (.small { e with S := smallStep e.N (tapEntry s.platform.taps e.N) e.directTop e.S }) (.ok .none)
  | nextBig (e) : Served s .next (.big e)
      (.big { e with S := bigStep e.N (tapEntry s.platform.taps e.N) e.directTop e.S }) (.ok .none)
  | toU64Big (e) (h : e.N ≤ 64) : Served s .toU64 (.big e) (.big e) (.ok (.r64 (toU64Limbs e.S)))
  | toU64Mli (m) (hf : m.faulted = false) (h : m.N ≤ 64 ∨ limbsVal m.V < 2 ^ 64) :
      Served s .toU64 (.mli m) (.mli m) (.ok (.r64 (toU64Limbs m.V)))
  | bit (m i) (hf : m.faulted = false) (h : i < m.N) :
      Served s (.bit i) (.mli m) (.mli m) (.ok (.rbit (bitAt m.V i)))
  | setBit (m i b) (hf : m.faulted = false) (h : i < m.N) :
      Served s (.setBit i b) (.mli m) (.mli { m with V := setBitAt m.V i b }) (.ok .none)
  | popcount (m) (hf : m.faulted = false) :
      Served s .popcount (.mli m) (.mli m) (.ok (.rcount (popcountLimbs m.V)))
  | complement (m) (hf : m.faulted = false) :
      Served s .complement (.mli m) (.mli { m with V := complementLimbs m.N m.V }) (.ok .none)
  | parity (m ps) (hf : m.faulted = false) (h : ∀ p ∈ ps, p < m.N) :
      Served s (.parity ps) (.mli m) (.mli m) (.ok (.rbit (parityAt m.V ps)))
  | parityTop (m ps) (hf : m.faulted = false) (h : ∀ p ∈ ps, p < m.N) :
      Served s (.parityTop ps) (.mli m) (.mli m) (.ok (.rlimb m.L (parityTopAt m.N m.V ps)))
  | shr1 (m b) (hf : m.faulted = false) :
      Served s (.shr1 b) (.mli m) (.mli { m with V := shr1Limbs m.N m.V b }) (.ok .none)
  | shr1p (m f) (hf : m.faulted = false) (h : f = 0 ∨ f = 2 ^ topOffset m.N m.L) :
      Served s (.shr1p f) (.mli m) (.mli { m with V := shr1pLimbs m.V (BitVec.ofNat m.L f) }) (.ok .none)
  | equal (m w c) (hf : m.faulted = false) (h : comparand m.N m.L w = some c) :
      Served s (.equal w) (.mli m) (.mli m) (.ok (.rbit (equalLimbs m.V c)))
  | bitFault (m i) (hf : m.faulted = false) (h : m.N ≤ i) :
      Served s (.bit i) (.mli m) (.mli (raiseFaulted m)) (.fault .index i)
  | setBitFault (m i b) (hf : m.faulted = false) (h : m.N ≤ i) :
      Served s (.setBit i b) (.mli m) (.mli (raiseFaulted m)) (.fault .index i)
  | parityFault (m ps p) (hf : m.faulted = false) (h : firstOutOfRange m.N ps = some p) :
      Served s (.parity ps) (.mli m) (.mli (raiseFaulted m)) (.fault .index p)
  | parityTopFault (m ps p) (hf : m.faulted = false) (h : firstOutOfRange m.N ps = some p) :
      Served s (.parityTop ps) (.mli m) (.mli (raiseFaulted m)) (.fault .index p)

theorem firstOutOfRange_single {N i p : Nat} (h : firstOutOfRange N [i] = some p) : p = i ∧ N ≤ i := by
  simp only [firstOutOfRange, List.find?_cons, List.find?_nil] at h
  split at h
  · simp_all
  · cases h

/-- A request that answers a next state served the addressed instance in one of the listed ways. -/
theorem exec_next {i : Instr} {s t : State} (h : exec i s = .next t) :
    ∃ inst inst' r, s.instances[s.target]? = some inst ∧ Served s i inst inst' r ∧ t = s.answered inst' r := by
  cases i with
  | state =>
    obtain ⟨inst, ht, -, -, hf⟩ := serve_next h
    cases inst with
    | small e => exact ⟨_, _, _, ht, .stateSmall e, answer_next.1 hf⟩
    | big e => exact ⟨_, _, _, ht, .stateBig e, answer_next.1 hf⟩
    | mli m => cases hf
  | next =>
    obtain ⟨inst, ht, -, -, hf⟩ := serve_next h
    cases inst with
    | small e => exact ⟨_, _, _, ht, .nextSmall e, answer_next.1 hf⟩
    | big e => exact ⟨_, _, _, ht, .nextBig e, answer_next.1 hf⟩
    | mli m => cases hf
  | toU64 =>
    obtain ⟨inst, ht, hs, ho, hf⟩ := serve_next h
    cases inst with
    | small e => cases hf
    | big e => exact ⟨_, _, _, ht, .toU64Big e (of_decide_eq_true ho), answer_next.1 hf⟩
    | mli m =>
      dsimp only at hf
      split at hf
      · exact ⟨_, _, _, ht, .toU64Mli m hs (.inl ‹_›), answer_next.1 hf⟩
      · split at hf
        · exact ⟨_, _, _, ht, .toU64Mli m hs (.inr ‹_›), answer_next.1 hf⟩
        · cases hf
  | bit i =>
    obtain ⟨inst, ht, hs, -, hf⟩ := serve_next h
    obtain ⟨m, rfl, hm⟩ := onMli_next hf
    obtain ⟨hr, hok⟩ | ⟨p, hp, rfl⟩ := checkIndexes_next hm
    · exact ⟨_, _, _, ht, .bit m i hs (hr i (by simp)), answer_next.1 hok⟩
    · obtain ⟨rfl, hN⟩ := firstOutOfRange_single hp
      exact ⟨_, _, _, ht, .bitFault m _ hs hN, rfl⟩
  | setBit i b =>
    obtain ⟨inst, ht, hs, -, hf⟩ := serve_next h
    obtain ⟨m, rfl, hm⟩ := onMli_next hf
    obtain ⟨hr, hok⟩ | ⟨p, hp, rfl⟩ := checkIndexes_next hm
    · exact ⟨_, _, _, ht, .setBit m i b hs (hr i (by simp)), answer_next.1 hok⟩
    · obtain ⟨rfl, hN⟩ := firstOutOfRange_single hp
      exact ⟨_, _, _, ht, .setBitFault m _ b hs hN, rfl⟩
  | popcount =>
    obtain ⟨inst, ht, hs, -, hf⟩ := serve_next h
    obtain ⟨m, rfl, hm⟩ := onMli_next hf
    exact ⟨_, _, _, ht, .popcount m hs, answer_next.1 hm⟩
  | complement =>
    obtain ⟨inst, ht, hs, -, hf⟩ := serve_next h
    obtain ⟨m, rfl, hm⟩ := onMli_next hf
    exact ⟨_, _, _, ht, .complement m hs, answer_next.1 hm⟩
  | parity ps =>
    obtain ⟨inst, ht, hs, -, hf⟩ := serve_next h
    obtain ⟨m, rfl, hm⟩ := onMli_next hf
    obtain ⟨hr, hok⟩ | ⟨p, hp, rfl⟩ := checkIndexes_next hm
    · exact ⟨_, _, _, ht, .parity m ps hs hr, answer_next.1 hok⟩
    · exact ⟨_, _, _, ht, .parityFault m ps p hs hp, rfl⟩
  | parityTop ps =>
    obtain ⟨inst, ht, hs, -, hf⟩ := serve_next h
    obtain ⟨m, rfl, hm⟩ := onMli_next hf
    obtain ⟨hr, hok⟩ | ⟨p, hp, rfl⟩ := checkIndexes_next hm
    · exact ⟨_, _, _, ht, .parityTop m ps hs hr, answer_next.1 hok⟩
    · exact ⟨_, _, _, ht, .parityTopFault m ps p hs hp, rfl⟩
  | shr1 b =>
    obtain ⟨inst, ht, hs, -, hf⟩ := serve_next h
    obtain ⟨m, rfl, hm⟩ := onMli_next hf
    exact ⟨_, _, _, ht, .shr1 m b hs, answer_next.1 hm⟩
  | shr1p fill =>
    obtain ⟨inst, ht, hs, -, hf⟩ := serve_next h
    obtain ⟨m, rfl, hm⟩ := onMli_next hf
    cases hp : positionedFill m.N m.L fill with
    | none => simp [hp] at hm
    | some f =>
      obtain ⟨hfill, rfl⟩ := positionedFill_some.1 hp
      simp only [hp] at hm
      exact ⟨_, _, _, ht, .shr1p m fill hs hfill, answer_next.1 hm⟩
  | equal w =>
    obtain ⟨inst, ht, hs, -, hf⟩ := serve_next h
    obtain ⟨m, rfl, hm⟩ := onMli_next hf
    cases hp : comparand m.N m.L w with
    | none => simp [hp] at hm
    | some c =>
      simp only [hp] at hm
      exact ⟨_, _, _, ht, .equal m w c hs hp, answer_next.1 hm⟩

/-- A request changes no field of the state but the addressed instance and the client's record. -/
theorem exec_next_frame {i : Instr} {s t : State} (h : exec i s = .next t) :
    t.platform = s.platform ∧ t.target = s.target ∧ t.pending = s.pending ∧ t.marks = s.marks ∧
      t.instances.length = s.instances.length ∧ ∀ k, k ≠ s.target → t.instances[k]? = s.instances[k]? := by
  obtain ⟨inst, inst', r, -, -, rfl⟩ := exec_next h
  exact ⟨rfl, rfl, rfl, rfl, by simp, fun k hk => by simp [Ne.symm hk]⟩

/-- At an instance that is not stuck every request answers a next state or is refused for one of the spec's reasons. -/
theorem exec_answers (i : Instr) {s : State} {inst : Instance} (ht : s.instances[s.target]? = some inst)
    (hs : inst.stuck = false) : Answers (exec i s) := by
  cases i with
  | state =>
    refine serve_answers ht hs ?_
    cases inst with
    | small e => exact answers_answer _ _ _
    | big e => exact answers_answer _ _ _
    | mli m => exact answers_refused (by decide)
  | next =>
    refine serve_answers ht hs ?_
    cases inst with
    | small e => exact answers_answer _ _ _
    | big e => exact answers_answer _ _ _
    | mli m => exact answers_refused (by decide)
  | toU64 =>
    refine serve_answers ht hs ?_
    cases inst with
    | small e => exact answers_refused (by decide)
    | big e => exact answers_answer _ _ _
    | mli m =>
      dsimp only
      split
      · exact answers_answer _ _ _
      · split
        · exact answers_answer _ _ _
        · exact answers_refused (by decide)
  | bit i => exact serve_answers ht hs (onMli_answers _ fun m => checkIndexes_answers (answers_answer _ _ _))
  | setBit i b => exact serve_answers ht hs (onMli_answers _ fun m => checkIndexes_answers (answers_answer _ _ _))
  | popcount => exact serve_answers ht hs (onMli_answers _ fun m => answers_answer _ _ _)
  | complement => exact serve_answers ht hs (onMli_answers _ fun m => answers_answer _ _ _)
  | parity ps => exact serve_answers ht hs (onMli_answers _ fun m => checkIndexes_answers (answers_answer _ _ _))
  | parityTop ps => exact serve_answers ht hs (onMli_answers _ fun m => checkIndexes_answers (answers_answer _ _ _))
  | shr1 b => exact serve_answers ht hs (onMli_answers _ fun m => answers_answer _ _ _)
  | shr1p fill =>
    refine serve_answers ht hs (onMli_answers _ fun m => ?_)
    split
    · exact answers_refused (by decide)
    · exact answers_answer _ _ _
  | equal w =>
    refine serve_answers ht hs (onMli_answers _ fun m => ?_)
    split
    · exact answers_refused (by decide)
    · exact answers_answer _ _ _

/-- A step with moves pending is the first of them. -/
theorem step_cons {s : State} {mv : Move} {rest : List Move} (h : s.pending = mv :: rest) :
    step s = clientMove mv { s with pending := rest } := by simp [step, takeMove, h]

/-- A request whose ports decode, at an instance that is not stuck, runs the meaning of the decoded request. -/
theorem attend_instr {s : State} {p : Ports} {inst : Instance} {i : Instr}
    (ht : s.instances[s.target]? = some inst) (hs : inst.stuck = false) (hd : decode inst.shape p = .instr i) :
    attend p s = exec i s := by simp [attend, ht, hs, hd]

/-- The step of a request whose ports decode: what the meaning answers, settled (logs 9 and 10). -/
theorem step_request {s : State} {k : Nat} {p : Ports} {rest : List Move} {inst : Instance} {i : Instr}
    (hp : s.pending = .request k p :: rest) (ht : s.instances[k]? = some inst) (hs : inst.stuck = false)
    (hd : decode inst.shape p = .instr i) :
    step s = settle { s with pending := rest, target := k } (exec i { s with pending := rest, target := k }) := by
  rw [step_cons hp]
  exact congrArg (settle { s with pending := rest, target := k })
    (attend_instr (s := { s with pending := rest, target := k }) ht hs hd)

/-- A stuck instance attends to nothing (R221). -/
theorem attend_stuck {s : State} {p : Ports} {inst : Instance}
    (ht : s.instances[s.target]? = some inst) (hs : inst.stuck = true) : attend p s = .fault .stuck := by
  simp [attend, ht, hs]

/-- A request that answers a next state was decoded and executed. -/
theorem attend_next {s t : State} {p : Ports} (h : attend p s = .next t) :
    ∃ inst i, s.instances[s.target]? = some inst ∧ inst.stuck = false ∧ decode inst.shape p = .instr i ∧
      exec i s = .next t := by
  unfold attend at h
  cases ht : s.instances[s.target]? with
  | none => simp [ht] at h
  | some inst =>
    simp only [ht] at h
    cases hs : inst.stuck <;> simp only [hs, if_true, if_false, Bool.false_eq_true] at h
    · cases hd : decode inst.shape p with
      | instr i => exact ⟨inst, i, rfl, hs, hd, by simpa [hd] using h⟩
      | reject e =>
        simp only [hd] at h
        cases e <;> simp only [refuseTuple] at h
        · cases h
        · split at h <;> cases h
        · split at h <;> cases h
    · cases h

@[simp] theorem settle_next (s t : State) : settle s (.next t) = .next t := rfl
@[simp] theorem settle_stuck (s : State) : settle s (.fault .stuck) = .next (s.marked (.noStep s.target)) := rfl

/-- A refusal for one of the spec's reasons marks the run and the machine goes on. -/
theorem settle_refused {s : State} {r : Refusal} (h : r.code ≠ 0) :
    settle s (.refused r) = .next (s.marked (.refused s.target r)) := by simp [settle, h]

/-- A refusal for a reason of the model's own ends the machine. -/
theorem settle_ends {s : State} {r : Refusal} (h : r.code = 0) : settle s (.refused r) = .refused r := by
  simp [settle, h]

/-- Everything a presented request can do when it answers a next state: it was decoded and executed, or it had no step
or no meaning and left one mark of its instance. -/
theorem presentRequest_next {s t : State} {p : Ports} (h : presentRequest p s = .next t) :
    (∃ inst i, s.instances[s.target]? = some inst ∧ inst.stuck = false ∧ decode inst.shape p = .instr i ∧
      exec i s = .next t) ∨
    (attend p s = .fault .stuck ∧ t = s.marked (.noStep s.target)) ∨
    (∃ r, attend p s = .refused r ∧ r.code ≠ 0 ∧ t = s.marked (.refused s.target r)) := by
  unfold presentRequest at h
  cases ha : attend p s with
  | next u =>
    rw [ha, settle_next] at h
    cases h
    exact .inl (attend_next ha)
  | fault f =>
    cases f
    rw [ha, settle_stuck] at h
    cases h
    exact .inr (.inl ⟨rfl, rfl⟩)
  | refused r =>
    rw [ha] at h
    by_cases hr : r.code = 0
    · rw [settle_ends hr] at h
      cases h
    · rw [settle_refused hr] at h
      cases h
      exact .inr (.inr ⟨r, rfl, hr, rfl⟩)

/-- Everything a step can do: nothing, an elaboration made or rejected, a request executed, a request without a step or
a meaning, or a reset event. -/
theorem step_next {s t : State} (h : step s = .next t) :
    (s.pending = [] ∧ t = s) ∨
    (∃ p rest inst, s.pending = .elaborate p :: rest ∧ elaborate s.platform p = .ok inst ∧
      t = { s with pending := rest, instances := s.instances ++ [inst],
                   outputs := .elaborated s.instances.length :: s.outputs }) ∨
    (∃ p rest r, s.pending = .elaborate p :: rest ∧ elaborate s.platform p = .rejected r ∧
      t = { s with pending := rest, outputs := .rejected r :: s.outputs }) ∨
    (∃ k ports rest inst i, s.pending = .request k ports :: rest ∧ s.instances[k]? = some inst ∧
      inst.stuck = false ∧ decode inst.shape ports = .instr i ∧
      exec i { s with pending := rest, target := k } = .next t) ∨
    (∃ k ports rest m, s.pending = .request k ports :: rest ∧ m.index = k ∧
      t = ({ s with pending := rest, target := k } : State).marked m) ∨
    (∃ k rest inst, s.pending = .reset k :: rest ∧ s.instances[k]? = some inst ∧
      t = { s with pending := rest, instances := s.instances.set k inst.resetState }) := by
  cases hp : s.pending with
  | nil =>
    simp only [step, takeMove, hp] at h
    cases h
    exact .inl ⟨rfl, rfl⟩
  | cons mv rest =>
    rw [step_cons hp] at h
    cases mv with
    | elaborate p =>
      simp only [clientMove, elaborateMove] at h
      cases he : elaborate s.platform p with
      | ok inst =>
        simp only [he] at h
        cases h
        exact .inr (.inl ⟨p, rest, inst, rfl, he, rfl⟩)
      | rejected r =>
        simp only [he] at h
        cases h
        exact .inr (.inr (.inl ⟨p, rest, r, rfl, he, rfl⟩))
    | request k ports =>
      obtain ⟨inst, i, ht, hs, hd, hx⟩ | ⟨-, rfl⟩ | ⟨r, -, -, rfl⟩ := presentRequest_next h
      · exact .inr (.inr (.inr (.inl ⟨k, ports, rest, inst, i, rfl, ht, hs, hd, hx⟩)))
      · exact .inr (.inr (.inr (.inr (.inl ⟨k, ports, rest, .noStep k, rfl, rfl, rfl⟩))))
      · exact .inr (.inr (.inr (.inr (.inl ⟨k, ports, rest, .refused k r, rfl, rfl, rfl⟩))))
    | reset k =>
      obtain ⟨inst, hk, rfl⟩ := resetEvent_next h
      exact .inr (.inr (.inr (.inr (.inr ⟨k, rest, inst, rfl, hk, rfl⟩))))

/-- A step takes back no response and no mark (R255: a run that has not ended normally for one of these never does). -/
theorem step_records {s t : State} (h : step s = .next t) :
    (∃ es, t.outputs = es ++ s.outputs) ∧ ∃ ms, t.marks = ms ++ s.marks := by
  obtain ⟨-, rfl⟩ | ⟨-, -, -, -, -, rfl⟩ | ⟨-, -, r, -, -, rfl⟩ | ⟨k, -, rest, -, i, -, -, -, -, hx⟩ |
    ⟨-, -, -, m, -, -, rfl⟩ | ⟨-, -, -, -, -, rfl⟩ := step_next h
  · exact ⟨⟨[], rfl⟩, [], rfl⟩
  · exact ⟨⟨[_], rfl⟩, [], rfl⟩
  · exact ⟨⟨[_], rfl⟩, [], rfl⟩
  · obtain ⟨_, _, _, -, -, rfl⟩ := exec_next hx
    exact ⟨⟨[_], rfl⟩, [], rfl⟩
  · exact ⟨⟨[], rfl⟩, [_], rfl⟩
  · exact ⟨⟨[], rfl⟩, [], rfl⟩

end Sys2Proof.Machine
end

