-- ==== Sys2Proof/Laws/Limbs.lean ====
section
/-! SUPPORT. The limb arrays as numbers: bits (R111), bounds (R24), equality (R128), and the small lemmas of each pure
function of Machine/Limbs.lean. -/

namespace Sys2Proof.Machine

variable {L : Nat}

@[simp] theorem bitWord_toNat {w : Nat} (h : 1 ≤ w) (b : Bool) : (bitWord w b).toNat = b.toNat := by
  cases b
  · simp [bitWord]
  · have : 1 < 2 ^ w := Nat.one_lt_two_pow (by omega)
    simp [bitWord, Nat.mod_eq_of_lt this]

@[simp] theorem limbsVal_nil : limbsVal ([] : List (Limb L)) = 0 := rfl
@[simp] theorem limbsVal_cons (v : Limb L) (vs : List (Limb L)) :
    limbsVal (v :: vs) = v.toNat + 2 ^ L * limbsVal vs := rfl

@[simp] theorem limbAt_zero (v : Limb L) (vs : List (Limb L)) : limbAt (v :: vs) 0 = v := rfl
@[simp] theorem limbAt_succ (v : Limb L) (vs : List (Limb L)) (j : Nat) :
    limbAt (v :: vs) (j + 1) = limbAt vs j := rfl
@[simp] theorem limbAt_nil (j : Nat) : limbAt ([] : List (Limb L)) j = 0#L := by simp [limbAt]

/-- A value of `n` limbs is below `2^(L*n)`. -/
theorem limbsVal_lt (V : List (Limb L)) : limbsVal V < 2 ^ (L * V.length) := by
  induction V with
  | nil => simp
  | cons v vs ih =>
    have hv := v.isLt
    have : 2 ^ L * limbsVal vs + 2 ^ L ≤ 2 ^ L * 2 ^ (L * vs.length) := by
      rw [← Nat.mul_succ]; exact Nat.mul_le_mul_left _ ih
    rw [limbsVal_cons, List.length_cons, Nat.mul_add, Nat.mul_one, Nat.add_comm (L * _), Nat.pow_add]
    omega

/-- Value bit `i` is bit `i mod L` of limb `i div L` (R111). -/
theorem limbsVal_testBit (hL : 1 ≤ L) (V : List (Limb L)) (i : Nat) : (limbsVal V).testBit i = bitAt V i := by
  induction V generalizing i with
  | nil => simp [bitAt]
  | cons v vs ih =>
    rw [limbsVal_cons, Nat.add_comm, Nat.testBit_two_pow_mul_add _ v.isLt]
    by_cases h : i < L
    · simp [h, bitAt, Nat.div_eq_of_lt h, Nat.mod_eq_of_lt h, BitVec.testBit_toNat]
    · have h1 : i / L = (i - L) / L + 1 := by
        rw [← Nat.add_div_right _ (by omega : 0 < L)]; congr 1; omega
      have h2 : i % L = (i - L) % L := by rw [← Nat.mod_eq_sub_mod (by omega)]
      simp only [h, if_false, ih]
      simp [bitAt, h1, h2]

/-- Two limb arrays of one length with the same value are the same array (R128). -/
theorem limbsVal_inj {V W : List (Limb L)} (hl : V.length = W.length) (h : limbsVal V = limbsVal W) : V = W := by
  induction V generalizing W with
  | nil => cases W with
    | nil => rfl
    | cons => simp at hl
  | cons v vs ih => cases W with
    | nil => simp at hl
    | cons w ws =>
      simp only [limbsVal_cons] at h
      have hv := v.isLt
      have hw := w.isLt
      have e1 := congrArg (· % 2 ^ L) h
      have e2 := congrArg (· / 2 ^ L) h
      simp only [Nat.add_mul_mod_self_left, Nat.mod_eq_of_lt hv, Nat.mod_eq_of_lt hw] at e1
      simp only [Nat.add_mul_div_left _ _ (Nat.two_pow_pos L), Nat.div_eq_of_lt hv, Nat.div_eq_of_lt hw,
        Nat.zero_add] at e2
      rw [BitVec.eq_of_toNat_eq e1, ih (by simpa using hl) e2]

@[simp] theorem zeroLimbs_length (N L : Nat) : (zeroLimbs N L).length = limbCount N L := by simp [zeroLimbs]
@[simp] theorem oneLimbs_length (N L : Nat) : (oneLimbs N L).length = limbCount N L := by simp [oneLimbs]

theorem limbsVal_replicate_zero (n : Nat) : limbsVal (List.replicate n 0#L) = 0 := by
  induction n with
  | zero => rfl
  | succ n ih => simp [List.replicate_succ, ih]

@[simp] theorem limbsVal_zeroLimbs (N L : Nat) : limbsVal (zeroLimbs N L) = 0 := limbsVal_replicate_zero _

@[simp] theorem setBitAt_length (V : List (Limb L)) (i : Nat) (b : Bool) : (setBitAt V i b).length = V.length := by
  simp [setBitAt]

@[simp] theorem complementLimbs_length (N : Nat) (V : List (Limb L)) : (complementLimbs N V).length = V.length := by
  simp [complementLimbs]

@[simp] theorem shiftLimbs_length (fill : Limb L) (V : List (Limb L)) : (shiftLimbs fill V).length = V.length := by
  induction V with
  | nil => rfl
  | cons v vs ih => cases vs with
    | nil => rfl
    | cons u rest => simp [shiftLimbs, ih]

@[simp] theorem shr1Limbs_length (N : Nat) (V : List (Limb L)) (b : Bool) :
    (shr1Limbs N V b).length = V.length := by simp [shr1Limbs]

@[simp] theorem shr1pLimbs_length (V : List (Limb L)) (f : Limb L) : (shr1pLimbs V f).length = V.length := by
  simp [shr1pLimbs]

@[simp] theorem parityAt_nil (V : List (Limb L)) : parityAt V [] = false := rfl

/-- `K` limbs hold the `N` bits, with fewer than `L` bits over (R9). -/
theorem limbCount_bounds {N : Nat} (hN : 1 ≤ N) (hL : 1 ≤ L) :
    1 ≤ limbCount N L ∧ N ≤ limbCount N L * L ∧ limbCount N L * L < N + L := by
  unfold limbCount
  have h1 := Nat.div_add_mod (N + L - 1) L
  have h2 := Nat.mod_lt (N + L - 1) (by omega : 0 < L)
  have h3 : L * ((N + L - 1) / L) = (N + L - 1) / L * L := Nat.mul_comm _ _
  refine ⟨?_, by omega, by omega⟩
  exact (Nat.le_div_iff_mul_le (by omega)).2 (by omega)

/-- Value bit `N - 1` is bit `M` of limb `K - 1` (R111). -/
theorem topBit_position {N : Nat} (hN : 1 ≤ N) (hL : 1 ≤ L) :
    (N - 1) / L = limbCount N L - 1 ∧ topOffset N L < L ∧ N = (limbCount N L - 1) * L + topOffset N L + 1 := by
  have hd : (N - 1) / L = limbCount N L - 1 := by
    have : N + L - 1 = (N - 1) + L := by omega
    rw [limbCount, this, Nat.add_div_right _ (by omega)]; rfl
  refine ⟨hd, Nat.mod_lt _ (by omega), ?_⟩
  have := Nat.div_add_mod (N - 1) L
  rw [hd, Nat.mul_comm] at this
  unfold topOffset
  omega

end Sys2Proof.Machine
end

