-- ==== Sys2Proof/Laws/PerInstr.lean ====
section
/-! SUPPORT. The family `OpcodeRow`: the ports that spell a request carry the operation select of its row (R73). -/

namespace Sys2Proof.Laws.OpcodeRow

/-- The encoded request selects its own row of the operation table. -/
def Statement (i : Instr) : Prop := ∀ sh : Shape, opOfCode (encode sh i).op = some i.op

theorem state : Statement .state := fun _ => rfl
theorem next : Statement .next := fun _ => rfl
theorem toU64 : Statement .toU64 := fun _ => rfl
theorem bit (idx : Nat) : Statement (.bit idx) := fun _ => rfl
theorem setBit (idx : Nat) (val : Bool) : Statement (.setBit idx val) := fun _ => rfl
theorem popcount : Statement .popcount := fun _ => rfl
theorem complement : Statement .complement := fun _ => rfl
theorem parity (pos : List Nat) : Statement (.parity pos) := fun _ => rfl
theorem parityTop (pos : List Nat) : Statement (.parityTop pos) := fun _ => rfl
theorem shr1 (val : Bool) : Statement (.shr1 val) := fun _ => rfl
theorem shr1p (fill : Nat) : Statement (.shr1p fill) := fun _ => rfl
theorem equal (w : List Nat) : Statement (.equal w) := fun _ => rfl

end Sys2Proof.Laws.OpcodeRow
end

