-- ==== Sys2Proof/Laws/Shift.lean ====
section
/-! SUPPORT. The one-pass shift of R123 and R124 as a number, and bit-wise. -/

namespace Sys2Proof.Machine

variable {L : Nat}

/-- The pass drops bit 0, moves every other bit one place down across the limb boundaries, and ORs the fill into the
top limb: bit `i` of the result is bit `i + 1` of the old array, or a bit of the fill placed in the top limb. -/
theorem shiftLimbs_testBit (hL : 1 ≤ L) (fill : Limb L) (V : List (Limb L)) (hV : V ≠ []) (i : Nat) :
    bitAt (shiftLimbs fill V) i =
      (bitAt V (i + 1) || (decide (L * (V.length - 1) ≤ i) && fill.getLsbD (i - L * (V.length - 1)))) := by
  induction V generalizing i with
  | nil => exact absurd rfl hV
  | cons v vs ih => cases vs with
    | nil =>
      by_cases h : i < L
      · by_cases h' : i + 1 < L
        · simp [shiftLimbs, bitAt, Nat.div_eq_of_lt h, Nat.mod_eq_of_lt h, Nat.div_eq_of_lt h', Nat.mod_eq_of_lt h',
            BitVec.getLsbD_ushiftRight, Nat.add_comm]
        · have e : i + 1 = L := by omega
          simp [shiftLimbs, bitAt, Nat.div_eq_of_lt h, Nat.mod_eq_of_lt h, e, Nat.div_self (by omega : 0 < L),
            limbAt, BitVec.getLsbD_ushiftRight, Nat.add_comm 1 i]
      · have h1 : i / L = (i - L) / L + 1 := by
          rw [← Nat.add_div_right _ (by omega : 0 < L)]; congr 1; omega
        have h2 : (i + 1) / L = (i + 1 - L) / L + 1 := by
          rw [← Nat.add_div_right _ (by omega : 0 < L)]; congr 1; omega
        simp [shiftLimbs, bitAt, h1, h2, BitVec.getLsbD_of_ge fill i (by omega)]
    | cons u rest =>
      by_cases h : i < L
      · have hb : ¬ (L * (rest.length + 1) ≤ i) := by
          have : L ≤ L * (rest.length + 1) := Nat.le_mul_of_pos_right _ (by omega)
          omega
        by_cases h' : i + 1 < L
        · have hne : ¬ (L - 1 ≤ i) := by omega
          have hlt : i < L - 1 := by omega
          simp [shiftLimbs, bitAt, Nat.div_eq_of_lt h, Nat.mod_eq_of_lt h, Nat.div_eq_of_lt h', Nat.mod_eq_of_lt h',
            BitVec.getLsbD_ushiftRight, Nat.add_comm 1 i, BitVec.getLsbD_shiftLeft, hlt, hb]
        · have e : i + 1 = L := by omega
          have e' : i = L - 1 := by omega
          subst e'
          have hlt : L - 1 < L := by omega
          simp [shiftLimbs, bitAt, Nat.div_eq_of_lt hlt, Nat.mod_eq_of_lt hlt, e, Nat.div_self (by omega : 0 < L),
            hb,
            show 1 + (L - 1) = L by omega, Nat.mod_self, show 0 < L by omega]
      · have h1 : i / L = (i - L) / L + 1 := by
          rw [← Nat.add_div_right _ (by omega : 0 < L)]; congr 1; omega
        have h2 : i % L = (i - L) % L := by rw [← Nat.mod_eq_sub_mod (by omega)]
        have h3 : (i + 1) / L = (i - L + 1) / L + 1 := by
          rw [← Nat.add_div_right _ (by omega : 0 < L)]; congr 1; omega
        have h4 : (i + 1) % L = (i - L + 1) % L := by
          rw [Nat.mod_eq_sub_mod (by omega : L ≤ i + 1)]; congr 1; omega
        have key := ih (by simp) (i - L)
        have hm : L * (rest.length + 1) = L * rest.length + L := by rw [Nat.mul_add, Nat.mul_one]
        have e1 : bitAt (shiftLimbs fill (v :: u :: rest)) i = bitAt (shiftLimbs fill (u :: rest)) (i - L) := by
          simp [shiftLimbs, bitAt, h1, h2]
        have e2 : bitAt (v :: u :: rest) (i + 1) = bitAt (u :: rest) (i - L + 1) := by
          simp [bitAt, h3, h4]
        rw [e1, e2, key]
        simp only [List.length_cons, Nat.add_sub_cancel, hm]
        congr 1
        by_cases hc : L * rest.length ≤ i - L
        · have : L * rest.length + L ≤ i := by omega
          simp [hc, this, show i - L - L * rest.length = i - (L * rest.length + L) by omega]
        · have : ¬ (L * rest.length + L ≤ i) := by omega
          simp [hc, this]

/-- The same for the value (R123, R124). -/
theorem limbsVal_shiftLimbs_testBit (hL : 1 ≤ L) (fill : Limb L) (V : List (Limb L)) (hV : V ≠ []) (i : Nat) :
    (limbsVal (shiftLimbs fill V)).testBit i =
      ((limbsVal V).testBit (i + 1) ||
        (decide (L * (V.length - 1) ≤ i) && fill.getLsbD (i - L * (V.length - 1)))) := by
  rw [limbsVal_testBit hL, limbsVal_testBit hL, shiftLimbs_testBit hL fill V hV]

end Sys2Proof.Machine
end

