-- ==== Sys2Proof/Laws/Taps.lean ====
section
/-! SUPPORT. The legal widths (R150) and the open table's entries (R151, R153, R154). -/

namespace Sys2Proof.Machine

/-- The list of legal widths holds what the check passes (R150). -/
theorem mem_legalWidths {N : Nat} : N ∈ legalWidths ↔ isLegalWidth N = true := by
  simp only [legalWidths, isLegalWidth, List.mem_append, List.mem_range'_1, Bool.or_eq_true, Bool.and_eq_true,
    decide_eq_true_eq, beq_iff_eq, List.mem_cons, List.not_mem_nil, or_false]
  omega

theorem three_le_of_legal {N : Nat} (h : isLegalWidth N = true) : 3 ≤ N := by
  simp only [isLegalWidth, Bool.or_eq_true, Bool.and_eq_true, decide_eq_true_eq, beq_iff_eq] at h
  omega

/-- Whatever the free numbers, a shaped tap set is well formed (R151). -/
theorem shapeTaps_wellFormed {N : Nat} (hN : 4 ≤ N) (c : Nat → Nat) : wellFormedTaps N (shapeTaps N c) = true := by
  unfold shapeTaps
  split
  · have := Nat.mod_lt (c 1) (show 0 < N - 1 by omega)
    simp [wellFormedTaps, strictlyDescending]
    omega
  · dsimp only
    have h1 := Nat.mod_lt (c 1) (show 0 < N - 3 by omega)
    generalize c 1 % (N - 3) = x at h1 ⊢
    have h2 := Nat.mod_lt (c 2) (show 0 < 3 + x - 2 by omega)
    generalize c 2 % (3 + x - 2) = y at h2 ⊢
    have h3 := Nat.mod_lt (c 3) (show 0 < 2 + y - 1 by omega)
    generalize c 3 % (2 + y - 1) = z at h3 ⊢
    simp [wellFormedTaps, strictlyDescending]
    omega

theorem openTaps_wellFormed {N : Nat} (hN : 3 ≤ N) : wellFormedTaps N (openTaps N) = true := by
  unfold openTaps
  split
  · subst N; decide
  · exact shapeTaps_wellFormed (by omega) _

/-- The entry of a table made row by row from a list of widths. -/
theorem tapEntry_map {f : Nat → List Nat} {ws : List Nat} {N : Nat} (h : N ∈ ws) :
    tapEntry (ws.map (fun n => (n, f n))) N = f N := by
  induction ws with
  | nil => simp at h
  | cons w ws ih =>
    by_cases e : w = N
    · simp [tapEntry, e]
    · have hm : N ∈ ws := by simpa [Ne.symm e] using h
      have hb : (w == N) = false := by simpa using e
      simpa [tapEntry, hb] using ih hm

/-- The table check, entry by entry (R156). -/
theorem tapTableOk_entry {table : List (Nat × List Nat)} (h : tapTableOk table = true) {N : Nat}
    (hN : isLegalWidth N = true) : wellFormedTaps N (tapEntry table N) = true :=
  List.all_eq_true.1 h N (mem_legalWidths.2 hN)

end Sys2Proof.Machine
end

