-- ==== Sys2Proof/Laws/Xor.lean ====
section
/-! SUPPORT. XOR chains: a chain of booleans is the parity of a count, and a bit of a chain of words is the chain of
the words' bits (R119, R122, R174). -/

namespace Sys2Proof.Machine

/-- An XOR chain is 1 exactly when an odd number of its terms are set (R119). -/
theorem foldl_xor_eq_odd {α : Type} (f : α → Bool) (xs : List α) (b : Bool) :
    xs.foldl (fun b x => b ^^ f x) b = (b ^^ decide (xs.countP f % 2 = 1)) := by
  induction xs generalizing b with
  | nil => simp
  | cons x xs ih =>
    rw [List.foldl_cons, ih, List.countP_cons]
    cases f x
    · simp
    · have h : ((xs.countP f + 1) % 2 = 1) ↔ ¬ (xs.countP f % 2 = 1) := by omega
      simp only [if_true, h, decide_not]
      cases b <;> cases decide (xs.countP f % 2 = 1) <;> rfl

/-- A bit of a chain of words is the chain of that bit (R122, R174). -/
theorem foldl_xor_getLsbD {α : Type} {w : Nat} (g : α → BitVec w) (xs : List α) (a : BitVec w) (i : Nat) :
    (xs.foldl (fun a x => a ^^^ g x) a).getLsbD i = xs.foldl (fun b x => b ^^ (g x).getLsbD i) (a.getLsbD i) := by
  induction xs generalizing a with
  | nil => rfl
  | cons x xs ih => rw [List.foldl_cons, ih, BitVec.getLsbD_xor, List.foldl_cons]

/-- The feedback bit is the parity of the tapped bits (R173). -/
theorem feedback_eq_odd (N : Nat) (T : List Nat) (s : Nat) :
    feedback N T s = decide (T.countP (fun t => s.testBit (N - t)) % 2 = 1) := by
  simp [feedback, foldl_xor_eq_odd (fun t => s.testBit (N - t))]

/-- `PARITY` is the parity of the listed bits (R119). -/
theorem parityAt_eq_odd {L : Nat} (V : List (Limb L)) (ps : List Nat) :
    parityAt V ps = decide (ps.countP (bitAt V) % 2 = 1) := by
  simp [parityAt, foldl_xor_eq_odd (bitAt V)]

/-- `next_N`, bit by bit (R173). -/
theorem nextN_testBit {N : Nat} (hN : 1 ≤ N) (T : List Nat) {s : Nat} (hs : s < 2 ^ N) (i : Nat) :
    (nextN N T s).testBit i = (s.testBit (i + 1) || (decide (i = N - 1) && feedback N T s)) := by
  have h2 : s / 2 < 2 ^ (N - 1) := by
    have : 2 ^ N = 2 * 2 ^ (N - 1) := by rw [← Nat.pow_succ']; congr 1; omega
    omega
  have e : nextN N T s = 2 ^ (N - 1) * (feedback N T s).toNat + s / 2 := by
    unfold nextN; rw [Nat.mul_comm]; omega
  rw [e, Nat.testBit_two_pow_mul_add _ h2]
  by_cases hi : i < N - 1
  · simp [hi, Nat.testBit_succ, show ¬ (i = N - 1) by omega]
  · have hz : s.testBit (i + 1) = false :=
      Nat.testBit_lt_two_pow (Nat.lt_of_lt_of_le hs (Nat.pow_le_pow_right (by omega) (by omega)))
    by_cases he : i = N - 1
    · subst he
      rw [hz]
      cases feedback N T s <;> simp
    · have : i - (N - 1) ≠ 0 := by omega
      simp only [hi, if_false, hz, he, decide_false, Bool.false_and, Bool.or_false]
      cases feedback N T s
      · simp
      · obtain ⟨d, hd⟩ : ∃ d, i - (N - 1) = d + 1 := ⟨i - (N - 1) - 1, by omega⟩
        simp [hd, Nat.testBit_succ]

end Sys2Proof.Machine
end

