-- ==== Sys2Proof/Machine/Text.lean ====
section
/-! DEFINITION. The text syntax of R89 (30_encoding.md): one request a line, a mnemonic and its operands separated by
commas, decimal or `0x` numbers, `#` opens a comment, a `config` line first, a `reset` line for the reset event; and
the client's moves such a program stands for. Blanks around words and numbers carry no meaning. Log 22. -/

namespace Sys2Proof.Machine

/-- One line of a program text. -/
inductive Line where
  | blank
  | config (p : Params)
  | request (i : Instr)
  | reset
deriving DecidableEq, Repr

/-- A blank character of the text. -/
def isBlank (c : Char) : Bool := c == ' ' || c == '\t'

/-- The text without its comment (R89). -/
def withoutComment (cs : List Char) : List Char := cs.takeWhile (fun c => c != '#')

/-- The text without blanks at its two ends. -/
def trimBlanks (cs : List Char) : List Char := ((cs.dropWhile isBlank).reverse.dropWhile isBlank).reverse

/-- The text cut at each separator. -/
def cutAt (sep : Char) : List Char → List (List Char)
  | [] => [[]]
  | c :: cs =>
    if c = sep then [] :: cutAt sep cs
    else match cutAt sep cs with
      | [] => [[c]]
      | w :: ws => (c :: w) :: ws

/-- The words of the text: what stands between blanks. -/
def wordsOf (cs : List Char) : List (List Char) :=
  (cutAt ' ' (cs.map fun c => if isBlank c then ' ' else c)).filter (fun w => !w.isEmpty)

/-- The value of a digit. -/
def digitOf (c : Char) : Option Nat :=
  if '0'.toNat ≤ c.toNat ∧ c.toNat ≤ '9'.toNat then some (c.toNat - '0'.toNat)
  else if 'a'.toNat ≤ c.toNat ∧ c.toNat ≤ 'f'.toNat then some (c.toNat - 'a'.toNat + 10)
  else if 'A'.toNat ≤ c.toNat ∧ c.toNat ≤ 'F'.toNat then some (c.toNat - 'A'.toNat + 10)
  else none

/-- Digits of a base, the most significant first, after the value read so far. -/
def digitsValue (base : Nat) : Nat → List Char → Option Nat
  | acc, [] => some acc
  | acc, c :: cs =>
    match digitOf c with
    | none => none
    | some d => if d < base then digitsValue base (acc * base + d) cs else none

/-- A decimal or `0x` number with at least one digit. -/
def numberOf (cs : List Char) : Option Nat :=
  match cs with
  | [] => none
  | '0' :: 'x' :: c :: rest => digitsValue 16 0 (c :: rest)
  | c :: rest => digitsValue 10 0 (c :: rest)

/-- The operand list of a line: nothing, or numbers separated by commas. -/
def operandsOf (cs : List Char) : Option (List Nat) :=
  if (trimBlanks cs).isEmpty then some []
  else (cutAt ',' cs).mapM (fun w => numberOf (trimBlanks w))

/-- The mnemonics of R73. -/
def mnemonicText : Op → String
  | .state => "STATE"
  | .next => "NEXT"
  | .toU64 => "TO_U64"
  | .bit => "BIT"
  | .setBit => "SET_BIT"
  | .popcount => "POPCOUNT"
  | .complement => "COMPLEMENT"
  | .parity => "PARITY"
  | .parityTop => "PARITY_TOP"
  | .shr1 => "SHR1"
  | .shr1p => "SHR1P"
  | .equal => "EQ"

/-- The twelve operations in the order of R73. -/
def allOps : List Op :=
  [.state, .next, .toU64, .bit, .setBit, .popcount, .complement, .parity, .parityTop, .shr1, .shr1p, .equal]

/-- A one-bit operand. -/
def boolOf (n : Nat) : Option Bool := if n = 0 then some false else if n = 1 then some true else none

/-- The request of a mnemonic and its operands, in the forms R89 lists. -/
def requestOf (op : Op) (ns : List Nat) : Option Instr :=
  match op, ns with
  | .state, [] => some .state
  | .next, [] => some .next
  | .toU64, [] => some .toU64
  | .bit, [idx] => some (.bit idx)
  | .setBit, [idx, v] => (boolOf v).map (fun b => .setBit idx b)
  | .popcount, [] => some .popcount
  | .complement, [] => some .complement
  | .parity, pos => if pos.length ≤ 4 then some (.parity pos) else none
  | .parityTop, pos => if pos.length ≤ 4 then some (.parityTop pos) else none
  | .shr1, [v] => (boolOf v).map (fun b => .shr1 b)
  | .shr1p, [f] => some (.shr1p f)
  | .equal, w :: ws => some (.equal (w :: ws))
  | _, _ => none

/-- The kind a `KIND=` word names. -/
def kindOf (cs : List Char) : Option Kind :=
  if cs = "Small".toList then some .small
  else if cs = "Big".toList then some .big
  else if cs = "MLI".toList then some .mli
  else none

/-- The value of a `<key>=<value>` word among the words of a `config` line. -/
def configValue (key : String) (ws : List (List Char)) : Option (List Char) :=
  (ws.find? (fun w => (key.toList ++ ['=']).isPrefixOf w)).map (fun w => w.drop (key.length + 1))

/-- The parameters of a `config` line: `KIND` and `N` must stand, `L` and `DIRECT_TOP_BIT` may (R89). On words R89 does
not show the spec is silent; that an unknown word is passed over, that the first word of a repeated key counts, and
that an optional value that does not read counts as not given is the model's choice, log 22. -/
def configOf (ws : List (List Char)) : Option Params :=
  match (configValue "KIND" ws).bind kindOf, (configValue "N" ws).bind numberOf with
  | some kind, some N =>
    some { kind := kind, N := N, L := (configValue "L" ws).bind numberOf,
           directTopBit := ((configValue "DIRECT_TOP_BIT" ws).bind numberOf).bind boolOf }
  | _, _ => none

/-- A line of a program text; none where the line is none of the forms of R89. -/
def lineOf (text : List Char) : Option Line :=
  let cs := trimBlanks (withoutComment text)
  let name := cs.takeWhile (fun c => !isBlank c)
  let rest := cs.dropWhile (fun c => !isBlank c)
  if name.isEmpty then some .blank
  else if name = "config".toList then (configOf (wordsOf rest)).map .config
  else if name = "reset".toList ∧ (trimBlanks rest).isEmpty = true then some .reset
  else match allOps.find? (fun op => (mnemonicText op).toList == name) with
    | none => none
    | some op => (operandsOf rest).bind (fun ns => (requestOf op ns).map .request)

/-- The port widths the parameters of a `config` line give (R71, R9). -/
def paramsShape (p : Params) : Shape :=
  match p.kind with
  | .small => smallShape p.N
  | .big => limbShape p.N (p.L.getD Config.defaultLimbWidth)
  | .mli => limbShape p.N (p.L.getD Config.defaultLimbWidth)

/-- The move of a line after the `config` line: a request is encoded into its ports (R89); a number no port can carry
makes the text no program. -/
def lineMoves (k : Nat) (sh : Shape) : Line → Option (List Move)
  | .blank => some []
  | .config _ => none
  | .request i => if i.wf sh then some [.request k (encode sh i)] else none
  | .reset => some [.reset k]

/-- The client's moves of a program whose instance will be number `k`: its configuration line, then its requests and
reset events in order (R57, R89). -/
def programMoves (k : Nat) : List Line → Option (List Move)
  | .blank :: rest => programMoves k rest
  | .config p :: rest => (rest.mapM (lineMoves k (paramsShape p))).map (fun ms => .elaborate p :: ms.flatten)
  | .request _ :: _ => none
  | .reset :: _ => none
  | [] => none

/-- The state in which the client is about to run a program text; none where the text is no program or the client has
moves left. -/
def State.loadText (s : State) (text : List String) : Option State :=
  if s.pending = [] then
    ((text.mapM (fun l => lineOf l.toList)).bind (programMoves s.instances.length)).map
      (fun ms => { s with pending := ms })
  else none

end Sys2Proof.Machine
end

