-- ==== Sys2Proof/Tests/Slice0.lean ====
section
/-! SUPPORT. Tests of this row's own work. Expected values are those of spec/95_test_vectors.md (vectors V<n>, sections
2.1 to 2.8) and of the rules' own examples. `test_…` checks one definition or one step; `witness_<Name>` shows that the
hypotheses of `Obligations.<Name>` are met together, at boundary values where its clauses have ranges. -/

namespace Sys2Proof.Machine.Tests

/-! ### Small states -/

/-- A tap table that passes the shape check: the source's entry for 3 (R153), the entry the vectors use for 12, and two
taps for every other width. -/
def testTaps (N : Nat) : List Nat := if N = 3 then [3, 2] else if N = 12 then [12, 6, 4, 1] else [N, 1]

def testTable : List (Nat × List Nat) := legalWidths.map (fun N => (N, testTaps N))

theorem testTable_ok : tapTableOk testTable = true := by
  rw [tapTableOk, List.all_eq_true]
  intro N hN
  rw [testTable, tapEntry_map hN, testTaps]
  have h3 := three_le_of_legal (mem_legalWidths.1 hN)
  split
  · subst N; decide
  · split
    · subst N; decide
    · simp [wellFormedTaps, strictlyDescending]
      omega

/-- A state with one instance and a bare platform without 128-bit types. -/
def alone (table : List (Nat × List Nat)) (inst : Instance) : State :=
  { platform := ⟨false, table⟩, instances := [inst], target := 0, pending := [], outputs := [], marks := [] }

def mli (N L : Nat) (V : List Nat) : Mli := { N := N, L := L, V := V.map (BitVec.ofNat L), faulted := false }

def big (N L : Nat) (d : Bool) (S : List Nat) : BigEngine :=
  { N := N, L := L, directTop := d, S := S.map (BitVec.ofNat L) }

def small (d : Bool) (S : BitVec 8) : SmallEngine := { N := 3, W := 8, directTop := d, S := S }

/-- The state asked one request, spelled at the ports of instance 0. -/
def ask (inst : Instance) (i : Instr) : Out :=
  step { alone [(3, [3, 2]), (12, [12, 6, 4, 1])] inst with pending := [.request 0 (encode inst.shape i)] }

/-- The tuple of R71 with every port zero, at an instance with two limbs. -/
def tuple (op : OpCode) : Ports :=
  { op := op, idx := 0, val := false, cnt := 0#3, pos0 := 0, pos1 := 0, pos2 := 0, pos3 := 0, fill := 0, w := [0, 0] }

def instancesOf : Out → Option (List Instance)
  | .next t => some t.instances
  | .fault _ => none
  | .refused _ => none

def outputsOf : Out → Option (List Event)
  | .next t => some t.outputs
  | .fault _ => none
  | .refused _ => none

def marksOf : Out → Option (List Mark)
  | .next t => some t.marks
  | .fault _ => none
  | .refused _ => none

def pendingOf : Out → Option (List Move)
  | .next t => some t.pending
  | .fault _ => none
  | .refused _ => none

def refusalOf : Out → Option Refusal
  | .next _ => none
  | .fault _ => none
  | .refused r => some r

def faultOf : Out → Option Fault
  | .next _ => none
  | .fault r => some r
  | .refused _ => none

/-- The one response of a step from `alone`. -/
def answered (o : Out) (r : Response) : Bool := outputsOf o == some [.response 0 r]

/-- The request ended `Ok` with this result and the instance is now this one. -/
def endedWith (o : Out) (inst : Instance) (r : Result) : Bool :=
  instancesOf o == some [inst] && answered o (.ok r)

/-- The step left the one instance as it is, put nothing out, and marked its run so. -/
def unanswered (o : Out) (inst : Instance) (m : Mark) : Bool :=
  instancesOf o == some [inst] && outputsOf o == some [] && marksOf o == some [m]

/-- The request is refused so, with the instance unchanged (P3, P5 and P7 of 95_test_vectors.md). -/
def refusedWith (inst : Instance) (i : Instr) (r : Refusal) : Bool := unanswered (ask inst i) inst (.refused 0 r)

/-! ### Well-formedness refuses an ill-formed request for each check (R71) -/

theorem test_wf_bit_index_too_wide : (Instr.bit 16).wf (limbShape 12 8) = false := by decide
theorem test_wf_setBit_index_too_wide : (Instr.setBit 16 true).wf (limbShape 12 8) = false := by decide
theorem test_wf_parity_five_positions : (Instr.parity [0, 0, 0, 0, 0]).wf (limbShape 12 8) = false := by decide
theorem test_wf_parity_position_too_wide : (Instr.parity [0, 16]).wf (limbShape 12 8) = false := by decide
theorem test_wf_parityTop_five_positions : (Instr.parityTop [0, 0, 0, 0, 0]).wf (limbShape 12 8) = false := by decide
theorem test_wf_parityTop_position_too_wide : (Instr.parityTop [16]).wf (limbShape 12 8) = false := by decide
theorem test_wf_shr1p_fill_too_wide : (Instr.shr1p 256).wf (limbShape 12 8) = false := by decide
theorem test_wf_equal_wrong_count : (Instr.equal [1]).wf (limbShape 12 8) = false := by decide
theorem test_wf_equal_limb_too_wide : (Instr.equal [1, 256]).wf (limbShape 12 8) = false := by decide
theorem test_wf_index_up_to_port_width : (Instr.bit 15).wf (limbShape 12 8) = true := by decide

/-! ### Decoding, each constructor from its ports written out (R71, R73 to R81) -/

theorem test_decode_state : decode (limbShape 12 8) (tuple 0b0000#4) = .instr .state := by decide
theorem test_decode_next : decode (limbShape 12 8) (tuple 0b0001#4) = .instr .next := by decide
theorem test_decode_toU64 : decode (limbShape 12 8) (tuple 0b0010#4) = .instr .toU64 := by decide
theorem test_decode_bit : decode (limbShape 12 8) { tuple 0b0011#4 with idx := 10 } = .instr (.bit 10) := by decide
theorem test_decode_setBit :
    decode (limbShape 12 8) { tuple 0b0100#4 with idx := 10, val := true } = .instr (.setBit 10 true) := by decide
theorem test_decode_popcount : decode (limbShape 12 8) (tuple 0b0101#4) = .instr .popcount := by decide
theorem test_decode_complement : decode (limbShape 12 8) (tuple 0b0110#4) = .instr .complement := by decide
/-- V59: a position beyond `cnt` is not significant (R83). -/
theorem test_decode_parity :
    decode (limbShape 12 8) { tuple 0b0111#4 with cnt := 1#3, pos0 := 0, pos1 := 12 } = .instr (.parity [0]) := by
  decide
theorem test_decode_parityTop :
    decode (limbShape 16 8) { tuple 0b1000#4 with cnt := 4#3, pos0 := 0, pos1 := 1, pos2 := 3, pos3 := 12 } =
      .instr (.parityTop [0, 1, 3, 12]) := by decide
theorem test_decode_shr1 : decode (limbShape 12 8) { tuple 0b1001#4 with val := true } = .instr (.shr1 true) := by decide
theorem test_decode_shr1p : decode (limbShape 12 8) { tuple 0b1010#4 with fill := 0x08 } = .instr (.shr1p 8) := by decide
theorem test_decode_equal :
    decode (limbShape 12 8) { tuple 0b1011#4 with w := [0x01, 0x04] } = .instr (.equal [1, 4]) := by decide
theorem test_decode_reserved_op :
    decode (limbShape 12 8) (tuple 0b1100#4) = .reject .reservedOp ∧
    decode (limbShape 12 8) (tuple 0b1111#4) = .reject .reservedOp := by decide
theorem test_decode_reserved_cnt :
    decode (limbShape 12 8) { tuple 0b0111#4 with cnt := 5#3 } = .reject (.badCnt .parity) ∧
    decode (limbShape 12 8) { tuple 0b1000#4 with cnt := 7#3 } = .reject (.badCnt .parityTop) := by decide
/-- Log 8: a number the wires of `idx` cannot carry. -/
theorem test_decode_port_width :
    decode (limbShape 12 8) { tuple 0b0011#4 with idx := 16 } = .reject (.portWidth .bit) := by decide

/-- The rows of the opcode table, their other ports zero, and the reserved codes. -/
theorem test_table_words_decode :
    (List.range 16).map (decodeTableWord 8) =
      [some .state, some .next, some .toU64, some (.bit 0), some (.setBit 0 false), some .popcount, some .complement,
       some (.parity []), some (.parityTop []), some (.shr1 false), some (.shr1p 0), some (.equal [0, 0]),
       none, none, none, none] := by decide

/-- The request of a table word is the very next step of the reset state, at an instance that offers it. -/
theorem test_table_words_target :
    (List.range 12).map (wordTarget State.reset 8) = [0, 0, 1, 2, 2, 2, 2, 2, 2, 2, 2, 2] := by decide

theorem test_table_words_run :
    (List.range 16).map (fun w => marksOf (step (State.reset.withFetchWord 8 w))) =
      List.replicate 12 (some []) ++ List.replicate 4 (some [.refused 0 .reservedOp]) := by decide

/-! ### One step of each request -/

/-- R172 example; R192 on the limbs of R193's example. -/
theorem test_state_small : endedWith (ask (.small (small false 1#8)) .state) (.small (small false 1#8)) (.rstate 8 1#8) =
    true := by decide
theorem test_state_big :
    endedWith (ask (.big (big 12 8 false [0x80, 0x07])) .state) (.big (big 12 8 false [0x80, 0x07]))
      (.rstateLimbs 8 [0x80#8, 0x07#8]) = true := by decide

/-- R183, section 2.6: 1 goes to 4 and 4 to 2, with either strategy. -/
theorem test_next_small :
    endedWith (ask (.small (small true 1#8)) .next) (.small (small true 4#8)) .none = true ∧
    endedWith (ask (.small (small false 4#8)) .next) (.small (small false 2#8)) .none = true := by decide
/-- R203: with `TAPS(12) = (12, 6, 4, 1)` the step from 0xF00 crosses the limb boundary, with either strategy. -/
theorem test_next_big :
    endedWith (ask (.big (big 12 8 true [0x00, 0x0F])) .next) (.big (big 12 8 true [0x80, 0x07])) .none = true ∧
    endedWith (ask (.big (big 12 8 false [0x00, 0x0F])) .next) (.big (big 12 8 false [0x80, 0x07])) .none = true := by
  decide

/-- V94 (a value below `2^64` in 70 bits). -/
theorem test_toU64_low_limb_first :
    answered (ask (.mli (mli 70 32 [0x400, 0x40000, 0])) .toU64) (.ok (.r64 0x0004000000000400#64)) = true := by decide
/-- V97. -/
theorem test_toU64_wide_value_refused :
    refusedWith (.mli (mli 65 64 [0, 1])) .toU64 .wideU64 = true := by decide

/-- V3, V2. -/
theorem test_bit :
    answered (ask (.mli (mli 12 8 [0x00, 0x08])) (.bit 11)) (.ok (.rbit true)) = true ∧
    answered (ask (.mli (mli 12 8 [0x00, 0x04])) (.bit 9)) (.ok (.rbit false)) = true := by decide
/-- V7: index `N` faults although no excess bit exists. -/
theorem test_bit_index_fault :
    answered (ask (.mli (mli 16 8 [0xFF, 0xFF])) (.bit 16)) (.fault .index 16) = true ∧
    instancesOf (ask (.mli (mli 16 8 [0xFF, 0xFF])) (.bit 16)) =
      some [.mli { mli 16 8 [0xFF, 0xFF] with faulted := true }] := by decide

/-- V24, V31. -/
theorem test_setBit :
    endedWith (ask (.mli (mli 12 8 [0xFF, 0x0F])) (.setBit 7 false)) (.mli (mli 12 8 [0x7F, 0x0F])) .none = true ∧
    endedWith (ask (.mli (mli 70 32 [0, 0, 0])) (.setBit 31 true)) (.mli (mli 70 32 [0x80000000, 0, 0])) .none =
      true := by decide
/-- V29: the excess bit `N` cannot be set. -/
theorem test_setBit_index_fault :
    answered (ask (.mli (mli 9 8 [0, 0])) (.setBit 9 true)) (.fault .index 9) = true ∧
    instancesOf (ask (.mli (mli 9 8 [0, 0])) (.setBit 9 true)) = some [.mli { mli 9 8 [0, 0] with faulted := true }] := by
  decide

/-- V41, V42. -/
theorem test_popcount :
    answered (ask (.mli (mli 12 8 [0xFF, 0x0F])) .popcount) (.ok (.rcount 12)) = true ∧
    answered (ask (.mli (mli 12 8 [0x05, 0x04])) .popcount) (.ok (.rcount 3)) = true := by decide

/-- V45, V49: the top limb becomes `TOPMASK` minus its bits. -/
theorem test_complement :
    endedWith (ask (.mli (mli 12 8 [0x00, 0x04])) .complement) (.mli (mli 12 8 [0xFF, 0x0B])) .none = true ∧
    endedWith (ask (.mli (mli 70 32 [0, 0, 0])) .complement) (.mli (mli 70 32 [0xFFFFFFFF, 0xFFFFFFFF, 0x3F])) .none =
      true := by decide

/-- V52, V53, V55. -/
theorem test_parity :
    answered (ask (.mli (mli 12 8 [0x05, 0x04])) (.parity [0, 2, 10, 11])) (.ok (.rbit true)) = true ∧
    answered (ask (.mli (mli 12 8 [0x05, 0x04])) (.parity [])) (.ok (.rbit false)) = true ∧
    answered (ask (.mli (mli 12 8 [0x05, 0x04])) (.parity [2, 2])) (.ok (.rbit false)) = true := by decide
/-- V58: the first out-of-range position in list order. -/
theorem test_parity_first_position_out_of_range :
    answered (ask (.mli (mli 12 8 [0x05, 0x04])) (.parity [13, 12])) (.fault .index 13) = true := by decide

/-- V70, V72. -/
theorem test_parityTop :
    answered (ask (.mli (mli 12 8 [0x05, 0x04])) (.parityTop [0, 1])) (.ok (.rlimb 8 0x08#8)) = true ∧
    answered (ask (.mli (mli 16 8 [0x01, 0x00])) (.parityTop [0, 1, 3, 12])) (.ok (.rlimb 8 0x80#8)) = true := by decide
/-- Section 2.5, the chain rows of (12, 8) with [0xC1, 0x0A] and of (9, 8). -/
theorem test_parityTop_chain :
    parityTopChain 12 [0xC1#8, 0x0A#8] [0, 6, 8, 11] = 0x08#8 ∧ parityTopChain 9 [0x11#8, 0x01#8] [0, 4] = 0x00#8 := by
  decide

/-- V60, V69. -/
theorem test_shr1 :
    endedWith (ask (.mli (mli 12 8 [0x01, 0x04])) (.shr1 true)) (.mli (mli 12 8 [0x00, 0x0A])) .none = true ∧
    endedWith (ask (.mli (mli 70 32 [0, 1, 1])) (.shr1 true)) (.mli (mli 70 32 [0x80000000, 0x80000000, 0x20])) .none =
      true := by decide
/-- V66: with `M = 0` the top limb becomes exactly the fill. -/
theorem test_shr1_top_limb_is_fill :
    endedWith (ask (.mli (mli 9 8 [0x00, 0x01])) (.shr1 true)) (.mli (mli 9 8 [0x80, 0x01])) .none = true := by decide

/-- V80, V87. -/
theorem test_shr1p :
    endedWith (ask (.mli (mli 12 8 [0x01, 0x04])) (.shr1p 0x08)) (.mli (mli 12 8 [0x00, 0x0A])) .none = true ∧
    endedWith (ask (.mli (mli 3 8 [0x01])) (.shr1p 0x04)) (.mli (mli 3 8 [0x04])) .none = true := by decide
/-- V82, V84. -/
theorem test_shr1p_bad_fill :
    refusedWith (.mli (mli 12 8 [0x01, 0x04])) (.shr1p 0x80) .badFill = true ∧
    refusedWith (.mli (mli 12 8 [0x01, 0x04])) (.shr1p 0x18) .badFill = true := by decide

/-- V100, V101. -/
theorem test_equal :
    answered (ask (.mli (mli 12 8 [0x01, 0x04])) (.equal [0x01, 0x04])) (.ok (.rbit true)) = true ∧
    answered (ask (.mli (mli 12 8 [0x01, 0x04])) (.equal [0x01, 0x05])) (.ok (.rbit false)) = true := by decide
/-- V103, V106. -/
theorem test_equal_bad_operand :
    refusedWith (.mli (mli 12 8 [0x01, 0x04])) (.equal [0x01, 0x14]) .badOperand = true ∧
    refusedWith (.mli (mli 3 8 [0x05])) (.equal [0x0D]) .badOperand = true := by decide

/-! ### Outcomes and their order -/

/-- R84, R85: what each kind does not offer (P5, last row; P7, row 3). -/
theorem test_not_offered :
    refusedWith (.small (small false 1#8)) .toU64 .notOffered = true ∧
    refusedWith (.big (big 16 8 true [0x11, 0x0B])) .complement .notOffered = true ∧
    refusedWith (.mli (mli 9 8 [0x00, 0x01])) .next .notOffered = true := by decide

/-- R220: not offered comes before a reserved count, a stuck instance before everything. -/
theorem test_order_of_checks :
    unanswered (step { alone [] (.small (small false 1#8)) with
      pending := [.request 0 { tuple 0b0111#4 with cnt := 7#3 }] }) (.small (small false 1#8))
        (.refused 0 .notOffered) = true ∧
    unanswered (step { alone [] (.mli { mli 12 8 [0, 0] with faulted := true }) with
      pending := [.request 0 (tuple 0b1111#4)] }) (.mli { mli 12 8 [0, 0] with faulted := true })
        (.noStep 0) = true := by decide

/-- P7: a reserved count and a reserved code leave `V` as it is. -/
theorem test_reserved_leave_the_value :
    unanswered (step { alone [] (.mli (mli 9 8 [0x00, 0x01])) with
      pending := [.request 0 { tuple 0x7#4 with cnt := 6#3 }] }) (.mli (mli 9 8 [0x00, 0x01]))
        (.refused 0 .badCnt) = true ∧
    unanswered (step { alone [] (.mli (mli 9 8 [0x00, 0x01])) with
      pending := [.request 0 (tuple 0xD#4)] }) (.mli (mli 9 8 [0x00, 0x01])) (.refused 0 .reservedOp) = true := by decide

/-- The faulted instance of P4 after its third request. -/
def stuckMli : Mli := { mli 12 8 [0x08, 0x00] with faulted := true }

/-- P4, row 4: `BIT 3` at the stuck instance has no step and no response; the reset event of row 5 comes next. -/
theorem test_stuck_request_then_reset :
    let o := step { alone [] (.mli stuckMli) with
      pending := [.request 0 { tuple 0x3#4 with idx := 3 }, .reset 0] }
    unanswered o (.mli stuckMli) (.noStep 0) = true ∧ pendingOf o = some [.reset 0] := by decide

/-- P4, row 6: after the reset event `BIT 3` answers 0; the mark of row 4 stays. -/
theorem test_bit_after_reset :
    let o := step { alone [] (.mli (mli 12 8 [0x00, 0x00])) with
      pending := [.request 0 { tuple 0x3#4 with idx := 3 }], marks := [.noStep 0] }
    answered o (.ok (.rbit false)) = true ∧ marksOf o = some [.noStep 0] := by decide

/-- R58, R253: with instance 0 stuck and a refusal on record, a request to instance 1 is served. -/
theorem test_other_instance_goes_on :
    outputsOf (step { alone [] (.mli stuckMli) with
      instances := [.mli stuckMli, .mli (mli 12 8 [0x05, 0x04])],
      pending := [.request 1 (tuple 0x5#4)], marks := [.noStep 0, .refused 0 .badFill] }) =
      some [.response 1 (.ok (.rcount 3))] := by decide

/-- Logs 8 and 14: what no client can do ends the machine. -/
theorem test_models_own_refusals_end :
    refusalOf (step { alone [] (.mli (mli 12 8 [0, 0])) with pending := [.request 1 (tuple 0x5#4)] }) =
      some .noInstance ∧
    refusalOf (step { alone [] (.mli (mli 12 8 [0, 0])) with pending := [.request 0 { tuple 0x3#4 with idx := 16 }] }) =
      some .portWidth := by decide

/-- R221: at a stuck instance a meaning has no step. -/
theorem test_stuck_meaning : faultOf (exec .popcount (alone [] (.mli stuckMli))) = some .stuck := by decide

/-- R255, D39: a run that faulted and was reset has not ended normally; a faulted neighbour is no hindrance. -/
theorem test_ended_normally :
    ¬ ({ alone [] (.mli (mli 12 8 [0, 0])) with outputs := [.response 0 (.fault .index 12)] } : State).endedNormally 0 ∧
    ({ alone [] (.mli (mli 12 8 [0, 0])) with
        instances := [.mli (mli 12 8 [0, 0]), .mli stuckMli],
        outputs := [.response 1 (.fault .index 12), .response 0 (.ok (.rcount 0))],
        marks := [.noStep 1] } : State).endedNormally 0 := by
  refine ⟨fun h => ?_, ?_, ⟨_, rfl, rfl⟩, ?_, ?_⟩
  · exact absurd (h.2.2.1 (.fault .index 12) (by decide)) (by decide)
  · decide
  · decide
  · decide

/-- R222, R240: the reset event brings a faulted instance back, with `V` zero. -/
theorem test_reset_event :
    instancesOf (step { alone [] (.mli { mli 12 8 [0x05, 0x04] with faulted := true }) with pending := [.reset 0] }) =
      some [.mli (mli 12 8 [0, 0])] := by decide

/-! ### Elaboration (sections 2.1 to 2.4) -/

theorem test_selector :
    [0, 1, 8, 9, 16, 17, 32, 33, 64, 65, 128, 129].map (sel true) =
      [.rejected .noNativeType, .ok 8, .ok 8, .ok 16, .ok 16, .ok 32, .ok 32, .ok 64, .ok 64, .ok 128, .ok 128,
       .rejected .noNativeType] ∧
    [64, 65, 128].map (sel false) = [.ok 64, .rejected .noNativeType, .rejected .noNativeType] := by decide

/-- `N = 200, L = 12` is rejected for its width first. -/
theorem test_elaboration_rejections :
    elaborate ⟨false, []⟩ ⟨.small, 2, none, none⟩ = .rejected .widthUnsupported ∧
    elaborate ⟨false, []⟩ ⟨.small, 169, none, none⟩ = .rejected .widthUnsupported ∧
    elaborate ⟨false, []⟩ ⟨.small, 65, none, none⟩ = .rejected .noNativeType ∧
    elaborate ⟨false, []⟩ ⟨.big, 200, some 12, none⟩ = .rejected .widthUnsupported ∧
    elaborate ⟨false, []⟩ ⟨.big, 12, some 128, none⟩ = .rejected .limbWidth ∧
    elaborate ⟨false, []⟩ ⟨.big, 12, some 8, none⟩ = .rejected .tapDefect ∧
    elaborate ⟨false, []⟩ ⟨.mli, 0, some 32, none⟩ = .rejected .mliWidth ∧
    elaborate ⟨false, []⟩ ⟨.mli, 12, some 24, none⟩ = .rejected .limbWidth := by decide

/-- R245, R254: an elaborate move that passes adds the instance after the others; one that is rejected adds none. -/
theorem test_elaborate_move :
    let s := alone [] (.mli (mli 12 8 [0x05, 0x04]))
    let ok := step { s with pending := [.elaborate ⟨.mli, 9, some 8, none⟩] }
    let no := step { s with pending := [.elaborate ⟨.mli, 0, some 32, none⟩] }
    instancesOf ok = some [.mli (mli 12 8 [0x05, 0x04]), .mli (mli 9 8 [0, 0])] ∧ outputsOf ok = some [.elaborated 1] ∧
    pendingOf ok = some [] ∧
    instancesOf no = some [.mli (mli 12 8 [0x05, 0x04])] ∧ outputsOf no = some [.rejected .mliWidth] := by decide

theorem test_elaboration_of_an_mli :
    elaborate ⟨false, []⟩ ⟨.mli, 9, some 8, none⟩ = .ok (.mli (mli 9 8 [0, 0])) := by decide

/-- Section 2.3. -/
theorem test_shape_check :
    [(3, [3, 2]), (3, [3, 1]), (8, [8, 6, 5, 4]), (4, [4, 3, 2, 1])].all (fun r => wellFormedTaps r.1 r.2) = true ∧
    [(3, [3, 3]), (3, [2, 3]), (3, [3, 0]), (3, [3]), (3, [3, 2, 1]), (3, [4, 3]), (8, [8, 6, 6, 4]),
      (8, [8, 5, 6, 4]), (8, [8, 6, 5, 4, 3, 2]), (8, [7, 6, 5, 4]), (8, [8, 6, 5, 0]), (3, [])].any
      (fun r => wellFormedTaps r.1 r.2) = false := by decide

theorem test_tap_positions :
    tapPositions 12 [12, 6, 4, 1] = [0, 6, 8, 11] ∧ tapPositions 16 [16, 15, 13, 4] = [0, 1, 3, 12] := by decide

/-- Section 2.4: `K`, `M`, `E`, `IW` of (9, 8), (12, 8), (16, 8), (70, 32), (1234, 64). -/
theorem test_derived_constants :
    [(9, 8), (12, 8), (16, 8), (70, 32), (1234, 64)].map
      (fun p => [limbCount p.1 p.2, topOffset p.1 p.2, excessBits p.1 p.2, indexWidth p.1]) =
      [[2, 0, 7, 4], [2, 3, 4, 4], [2, 7, 0, 5], [3, 5, 26, 7], [20, 17, 46, 11]] ∧
    topMask 12 8 = 0x0F#8 ∧ topMask 16 8 = 0xFF#8 ∧ topMask 70 32 = 0x3F#32 := by decide

/-- G4: every row of the candidate table has the shape of R151 and stands under its width. -/
theorem test_candidate_rows_have_the_shape :
    [candidateTaps3, candidateTaps31, candidateTaps59, candidateTaps87, candidateTaps115, candidateTaps143].all
      (fun rows => rows.all (fun r => wellFormedTaps r.1 r.2)) = true := by decide

theorem test_candidate_rows_are_3_to_168 :
    candidateTaps3.map Prod.fst = List.range' 3 28 ∧ candidateTaps31.map Prod.fst = List.range' 31 28 ∧
    candidateTaps59.map Prod.fst = List.range' 59 28 ∧ candidateTaps87.map Prod.fst = List.range' 87 28 ∧
    candidateTaps115.map Prod.fst = List.range' 115 28 ∧ candidateTaps143.map Prod.fst = List.range' 143 26 := by decide

/-- R183: the cycle of `N = 3`; section 2.6: the first states of `N = 4` with (4, 3). -/
theorem test_next_cycles :
    (List.range 8).map (fun k => iterNextN 3 [3, 2] k 1) = [1, 4, 2, 5, 6, 7, 3, 1] ∧
    (List.range 16).map (fun k => iterNextN 4 [4, 3] k 1) =
      [1, 8, 4, 2, 9, 12, 6, 11, 5, 10, 13, 14, 15, 7, 3, 1] := by decide

/-! ### The text syntax of R89 -/

theorem test_text_request : lineOf "  SET_BIT 0x0a, 1   # set bit 10".toList = some (.request (.setBit 10 true)) := by
  decide
theorem test_text_empty_list : lineOf "PARITY      # cnt = 0".toList = some (.request (.parity [])) := by decide
theorem test_text_config :
    lineOf "config KIND=Big N=12 L=8 DIRECT_TOP_BIT=1".toList = some (.config ⟨.big, 12, some 8, some true⟩) := by decide
/-- Log 22: an unknown word is passed over and the first word of a repeated key counts. -/
theorem test_text_config_words :
    lineOf "config KIND=MLI N=12 FOO=7 N=9 L=8".toList = some (.config ⟨.mli, 12, some 8, none⟩) := by decide
theorem test_text_reset : lineOf "reset".toList = some .reset := by decide
theorem test_text_program :
    programMoves 3 [.config ⟨.mli, 12, some 8, none⟩, .blank, .request (.bit 10), .reset] =
      some [.elaborate ⟨.mli, 12, some 8, none⟩, .request 3 (encode (limbShape 12 8) (.bit 10)), .reset 3] := by decide

/-! ### Witnesses: hypotheses met together -/

/-- An addressed MLI instance that is not faulted and is well formed. -/
abbrev mliReady (s : State) (m : Mli) : Prop :=
  s.instances[s.target]? = some (.mli m) ∧ m.faulted = false ∧ m.wf s.platform

/-- `N = 1`, `L = 8` (`M = 0`, one limb), zero. -/
def m1 : Mli := mli 1 8 [0]
/-- `N = 12`, `L = 8`, bits 0, 2 and 10 set. -/
def m12 : Mli := mli 12 8 [0x05, 0x04]
/-- `N = 16`, `L = 8` (no excess bit), all ones. -/
def m16 : Mli := mli 16 8 [0xFF, 0xFF]
/-- `N = 65`, `L = 64`, the value `2^64`. -/
def m65 : Mli := mli 65 64 [0, 1]

theorem ready_m1 : mliReady (alone [] (.mli m1)) m1 := by decide
theorem ready_m12 : mliReady (alone [] (.mli m12)) m12 := by decide
theorem ready_m16 : mliReady (alone [] (.mli m16)) m16 := by decide
theorem ready_m65 : mliReady (alone [] (.mli m65)) m65 := by decide

def e3 : SmallEngine := small false 1#8
def b3 : BigEngine := big 3 32 true [1]
def b12 : BigEngine := big 12 8 false [0x00, 0x0F]
def b65 : BigEngine := big 65 64 false [1, 0]

/-- The engines stand on a table that passes the check, addressed and well formed. -/
theorem ready_e3 : (alone testTable (.small e3)).instances[(alone testTable (.small e3)).target]? = some (.small e3) ∧
    tapTableOk (alone testTable (.small e3)).platform.taps = true ∧ e3.wf (alone testTable (.small e3)).platform :=
  ⟨rfl, testTable_ok, by decide⟩
theorem ready_b3 : (alone testTable (.big b3)).instances[(alone testTable (.big b3)).target]? = some (.big b3) ∧
    tapTableOk (alone testTable (.big b3)).platform.taps = true ∧ b3.wf (alone testTable (.big b3)).platform :=
  ⟨rfl, testTable_ok, by decide⟩
theorem ready_b12 : (alone testTable (.big b12)).instances[(alone testTable (.big b12)).target]? = some (.big b12) ∧
    tapTableOk (alone testTable (.big b12)).platform.taps = true ∧ b12.wf (alone testTable (.big b12)).platform :=
  ⟨rfl, testTable_ok, by decide⟩
theorem ready_b65 : (alone testTable (.big b65)).instances[(alone testTable (.big b65)).target]? = some (.big b65) ∧
    tapTableOk (alone testTable (.big b65)).platform.taps = true ∧ b65.wf (alone testTable (.big b65)).platform :=
  ⟨rfl, testTable_ok, by decide⟩

theorem testTable_three : tapEntry testTable 3 = [3, 2] := by rw [testTable, tapEntry_map (by decide)]; rfl

theorem witness_ResetValuesOfEveryInstance :
    (Instance.small e3).wf ⟨false, testTable⟩ ∧ (Instance.big b12).wf ⟨false, testTable⟩ ∧
      (Instance.mli m12).wf ⟨false, []⟩ := ⟨ready_e3.2, ready_b12.2, ready_m12.2.2⟩

/-- A state whose one move is the reset event of its faulted instance. -/
def faultedWithReset : State :=
  { alone [] (.mli { m12 with faulted := true }) with pending := [.reset 0] }

theorem witness_ResetEventResetsOneInstance :
    faultedWithReset.pending = .reset 0 :: [] ∧
      faultedWithReset.instances[0]? = some (.mli { m12 with faulted := true }) := by decide

/-- Each clause of the elaboration order: a width, a native type, a limb width, a table that fails, and three that pass,
at the ends of their ranges. -/
theorem witness_ElaborationChecksInOrder :
    2 ∉ legalWidths ∧ 169 ∉ legalWidths ∧ 3 ∈ legalWidths ∧ 168 ∈ legalWidths ∧ 4096 ∈ legalWidths ∧
    (∀ W, sel false 65 ≠ .ok W) ∧ admittedLimbWidth false ((some 128).getD 32) = false ∧
    admittedLimbWidth false ((none : Option Nat).getD 32) = true ∧ admittedLimbWidth true ((some 128).getD 32) = true ∧
    sel false 64 = .ok 64 ∧ tapTableOk [] = false ∧ tapTableOk testTable = true ∧ 0 < 1 ∧ 1 ≤ 1 :=
  ⟨by decide, by decide, by decide, by decide, by decide, (fun W h => by cases h), rfl, rfl, rfl, rfl, by decide,
    testTable_ok, by decide, by decide⟩

theorem witness_ElaboratedInstanceIsWellFormed :
    elaborate ⟨false, testTable⟩ ⟨.small, 3, none, none⟩ = .ok (.small e3) ∧
    elaborate ⟨false, testTable⟩ ⟨.big, 3, none, some true⟩ = .ok (.big b3) ∧
    elaborate ⟨false, testTable⟩ ⟨.mli, 1, some 8, none⟩ = .ok (.mli m1) ∧
    ({ alone [] (.mli m12) with pending := [.elaborate ⟨.mli, 1, some 8, none⟩] } : State).pending =
      .elaborate ⟨.mli, 1, some 8, none⟩ :: [] ∧
    elaborate (alone [] (.mli m12)).platform ⟨.mli, 1, some 8, none⟩ = .ok (.mli m1) ∧
    elaborate (alone [] (.mli m12)).platform ⟨.mli, 0, some 8, none⟩ = .rejected .mliWidth := by
  refine ⟨?_, ?_, by decide, rfl, by decide, by decide⟩
  · simp [elaborate, elaborateSmall, testTable_ok, isLegalWidth, sel, e3, small, Config.defaultDirectTopBit]
  · simp [elaborate, elaborateBig, testTable_ok, isLegalWidth, admittedLimbWidth, Config.defaultLimbWidth, oneLimbs,
      zeroLimbs, limbCount, b3, big]

theorem witness_LegalWidthsAndLookup : 3 ∈ legalWidths ∧ 4096 ∈ legalWidths ∧ 2 ∉ legalWidths ∧ 513 ∉ legalWidths := by
  decide

theorem witness_TapPositionsAreValidIndexes :
    wellFormedTaps 3 [3, 2] = true ∧ wellFormedTaps 4 [4, 3, 2, 1] = true := by decide

theorem witness_DerivedConstantsOfLimbs : 1 ≤ 1 ∧ 1 ≤ 12 ∧ 1 ≤ 8 := by decide

/-- Each row's clause at the largest operands its ports carry (`N = 12`, `L = 8`: 15, 255, two limbs). -/
theorem witness_OperationTableDecodes :
    (tuple 0x3#4).op = 0x3#4 ∧ 15 < 2 ^ (limbShape 12 8).indexWidth ∧
    ({ tuple 0x7#4 with cnt := 4#3, pos3 := 15 } : Ports).cnt.toNat ≤ 4 ∧
    (∀ x ∈ [0, 0, 0, 15].take 4, x < 2 ^ (limbShape 12 8).indexWidth) ∧ 255 < 2 ^ (limbShape 12 8).limbWidth ∧
    ([255, 255] : List Nat).length = (limbShape 12 8).limbCount ∧ (∀ x ∈ [255, 255], x < 2 ^ (limbShape 12 8).limbWidth) ∧
    12 ≤ (tuple 0xC#4).op.toNat ∧ 12 ≤ (tuple 0xF#4).op.toNat := by decide

/-- A well-formed request of every format, at the largest operands. -/
theorem witness_DecodeOfEncodeIsIdentity :
    [Instr.state, .next, .toU64, .bit 15, .setBit 15 true, .popcount, .complement, .parity [15, 15, 15, 15], .parity [],
      .parityTop [15], .shr1 true, .shr1p 255, .equal [255, 255]].all (fun i => i.wf (limbShape 12 8)) = true := by decide

theorem witness_AcceptedPortsAreTheEncoders :
    decode (limbShape 12 8) { tuple 0x4#4 with idx := 15, val := true, fill := 300 } = .instr (.setBit 15 true) ∧
    decode (limbShape 12 8) { tuple 0x7#4 with cnt := 4#3, pos3 := 15 } = .instr (.parity [0, 0, 0, 15]) ∧
    decode (limbShape 12 8) { tuple 0xA#4 with fill := 255 } = .instr (.shr1p 255) ∧
    decode (limbShape 12 8) { tuple 0xB#4 with w := [255, 15] } = .instr (.equal [255, 15]) := by decide

/-- Two tuples that differ in every port but the significant `idx` of `BIT`. -/
theorem witness_InsignificantPortsAreIgnored :
    let p := { tuple 0x3#4 with idx := 10 }
    let q : Ports := ⟨0x3#4, 10, true, 7#3, 99, 98, 97, 96, 255, []⟩
    p.op = q.op ∧ opOfCode p.op = some .bit ∧ p.idx = q.idx ∧ p.val ≠ q.val ∧ p.cnt ≠ q.cnt ∧ p.fill ≠ q.fill ∧ p.w ≠ q.w := by
  decide

/-- `m12` with one request at the ports. -/
def asked (inst : Instance) (p : Ports) : State := { alone [] inst with pending := [.request 0 p] }

theorem witness_StepRunsDecodedRequest :
    let p := { tuple 0x3#4 with idx := 11 }
    let s := asked (.mli m12) p
    s.pending = .request 0 p :: [] ∧ s.instances[0]? = some (.mli m12) ∧ (Instance.mli m12).stuck = false ∧
      decode (Instance.mli m12).shape p = .instr (.bit 11) ∧ (∃ t, exec (.bit 11) { s with pending := [], target := 0 } = .next t) ∧
      decode (Instance.mli m12).shape { tuple 0xA#4 with fill := 1 } = .instr (.shr1p 1) ∧
      exec (.shr1p 1) { s with pending := [], target := 0 } = .refused .badFill :=
  ⟨rfl, rfl, rfl, by decide, ⟨_, rfl⟩, by decide, rfl⟩

/-- The reserved codes and counts at both ends of their ranges. -/
theorem witness_ReservedEncodingsAreRefused :
    (asked (.mli m12) (tuple 0xC#4)).pending = .request 0 (tuple 0xC#4) :: [] ∧
    (asked (.mli m12) (tuple 0xC#4)).instances[0]? = some (.mli m12) ∧ (Instance.mli m12).stuck = false ∧
    12 ≤ (tuple 0xC#4).op.toNat ∧ 12 ≤ (tuple 0xF#4).op.toNat ∧ (Instance.mli m12).isEngine = false ∧
    5 ≤ ({ tuple 0x7#4 with cnt := 5#3 } : Ports).cnt.toNat ∧ 5 ≤ ({ tuple 0x8#4 with cnt := 7#3 } : Ports).cnt.toNat := by
  decide

/-- For each kind the first and the last operation it does not offer. -/
theorem witness_NotOfferedIsRefusedFirst :
    (asked (.small e3) (tuple 0x2#4)).pending = .request 0 (tuple 0x2#4) :: [] ∧
    (asked (.small e3) (tuple 0x2#4)).instances[0]? = some (.small e3) ∧ (Instance.small e3).stuck = false ∧
    2 ≤ (tuple 0x2#4).op.toNat ∧ (tuple 0xB#4).op.toNat < 12 ∧ 3 ≤ (tuple 0x3#4).op.toNat ∧ (tuple 0x2#4).op.toNat = 2 ∧
    64 < b65.N ∧ (tuple 0x0#4).op.toNat < 2 ∧ (tuple 0x1#4).op.toNat < 2 := by decide

theorem witness_StateAnswersTheRegister :
    (alone [] (.small e3)).instances[(alone [] (.small e3)).target]? = some (.small e3) ∧
    (alone [] (.big b12)).instances[(alone [] (.big b12)).target]? = some (.big b12) ∧ (tuple 0x0#4).op = 0x0#4 := by decide

theorem witness_NextOnSmallEngine :
    (alone testTable (.small e3)).instances[(alone testTable (.small e3)).target]? = some (.small e3) ∧
      tapTableOk (alone testTable (.small e3)).platform.taps = true ∧ e3.wf (alone testTable (.small e3)).platform ∧
      0 < e3.N ∧ 2 < e3.N ∧ (tuple 0x1#4).op = 0x1#4 :=
  ⟨ready_e3.1, ready_e3.2.1, ready_e3.2.2, by decide, by decide, rfl⟩

theorem witness_NextOnBigEngine :
    (alone testTable (.big b12)).instances[(alone testTable (.big b12)).target]? = some (.big b12) ∧
      tapTableOk (alone testTable (.big b12)).platform.taps = true ∧ b12.wf (alone testTable (.big b12)).platform ∧
      11 < b12.N :=
  ⟨ready_b12.1, ready_b12.2.1, ready_b12.2.2, by decide⟩

/-- `N = 12` and `N = 65` on a Big engine; on an MLI instance a value at and below the bound `2^64`. -/
theorem witness_ToU64IsTheValueOrRefused :
    b12.wf (alone [] (.big b12)).platform ∧ b12.N ≤ 64 ∧ b65.wf (alone [] (.big b65)).platform ∧ 64 < b65.N ∧
    mliReady (alone [] (.mli m12)) m12 ∧ m12.N ≤ 64 ∧ mliReady (alone [] (.mli m65)) m65 ∧ 64 < m65.N ∧
    2 ^ 64 ≤ limbsVal m65.V ∧ limbsVal (mli 65 64 [0xFFFFFFFFFFFFFFFF, 0]).V < 2 ^ 64 :=
  ⟨by decide, by decide, by decide, by decide, ready_m12, by decide, ready_m65, by decide, by decide, by decide⟩

/-- The bit statements: the first and last index in range, the first out of range, and the port clause. -/
theorem witness_BitAnswersTheBit :
    mliReady (alone [] (.mli m12)) m12 ∧ 0 < m12.N ∧ 11 < m12.N ∧ m12.N ≤ 12 ∧ 15 < 2 ^ (limbShape 12 8).indexWidth :=
  ⟨ready_m12, by decide, by decide, by decide, by decide⟩

theorem witness_SetBitWritesOneBit :
    mliReady (alone [] (.mli m16)) m16 ∧ 15 < m16.N ∧ m16.N ≤ 16 ∧ 1 ≠ 0 / m16.L ∧ mliReady (alone [] (.mli m1)) m1 ∧
      0 < m1.N ∧ m1.N ≤ 1 :=
  ⟨ready_m16, by decide, by decide, by decide, ready_m1, by decide, by decide⟩

theorem witness_PopcountCountsSetBits : mliReady (alone [] (.mli m12)) m12 ∧ mliReady (alone [] (.mli m1)) m1 :=
  ⟨ready_m12, ready_m1⟩
theorem witness_ComplementFlipsTheValue : mliReady (alone [] (.mli m12)) m12 ∧ mliReady (alone [] (.mli m16)) m16 :=
  ⟨ready_m12, ready_m16⟩
theorem witness_PopcountAfterComplement : mliReady (alone [] (.mli m12)) m12 := ready_m12

/-- In-range lists at both ends, and a list whose second entry is the first out of range. -/
theorem witness_ParityIsOddCount :
    mliReady (alone [] (.mli m12)) m12 ∧ (∀ p ∈ ([] : List Nat), p < m12.N) ∧ (∀ p ∈ [0, 11, 11, 0], p < m12.N) ∧
    ([0, 12, 13] : List Nat) = [0] ++ 12 :: [13] ∧ (∀ q ∈ [0], q < m12.N) ∧ m12.N ≤ 12 ∧
    ({ tuple 0x7#4 with cnt := 4#3 } : Ports).cnt.toNat ≤ 4 :=
  ⟨ready_m12, by decide, by decide, by decide, by decide, by decide, by decide⟩
theorem witness_ParityTopIsShiftedParity :
    mliReady (alone [] (.mli m16)) m16 ∧ (∀ p ∈ [0, 15], p < m16.N) ∧ ([15, 16] : List Nat) = [15] ++ 16 :: [] ∧
    (∀ q ∈ [15], q < m16.N) ∧ m16.N ≤ 16 :=
  ⟨ready_m16, by decide, by decide, by decide, by decide⟩
theorem witness_ParityChainIsShiftedParity : 1 ≤ 12 ∧ 1 ≤ 8 ∧ ∀ p ∈ [0, 6, 8, 11], p < 12 := by decide

theorem witness_Shr1HalvesAndFills : mliReady (alone [] (.mli m12)) m12 ∧ mliReady (alone [] (.mli m1)) m1 :=
  ⟨ready_m12, ready_m1⟩
/-- The two admitted fills, and two that are neither (V82, V83). -/
theorem witness_Shr1pTakesPositionedFill :
    mliReady (alone [] (.mli m12)) m12 ∧ 8 = 2 ^ topOffset m12.N m12.L ∧ (1 : Nat) ≠ 0 ∧ 1 ≠ 2 ^ topOffset m12.N m12.L ∧
    128 ≠ 2 ^ topOffset m12.N m12.L ∧ 255 < 2 ^ (limbShape 12 8).limbWidth :=
  ⟨ready_m12, by decide, by decide, by decide, by decide, by decide⟩
theorem witness_ShiftVariantsAgree : mliReady (alone [] (.mli m12)) m12 ∧ ∀ p ∈ [0, 11], p < m12.N :=
  ⟨ready_m12, by decide⟩
theorem witness_ShiftRoundTripLaws :
    mliReady (alone [] (.mli m1)) m1 ∧ 0 < m1.N ∧ limbsVal m1.V = 0 ∧ mliReady (alone [] (.mli m16)) m16 ∧
      limbsVal m16.V = 2 ^ m16.N - 1 :=
  ⟨ready_m1, by decide, by decide, ready_m16, by decide⟩
/-- The largest top limb without, and the smallest with, an excess bit. -/
theorem witness_EqualComparesValues :
    mliReady (alone [] (.mli m12)) m12 ∧ ([0xFF, 0x0F] : List Nat).length = limbCount m12.N m12.L ∧
    (∀ x ∈ [0xFF, 0x10], x < 2 ^ m12.L) ∧
    ([0xFF, 0x0F] : List Nat).getD (limbCount m12.N m12.L - 1) 0 < 2 ^ (topOffset m12.N m12.L + 1) ∧
    2 ^ (topOffset m12.N m12.L + 1) ≤ ([0xFF, 0x10] : List Nat).getD (limbCount m12.N m12.L - 1) 0 :=
  ⟨ready_m12, by decide, by decide, by decide, by decide⟩

theorem witness_IndexFaultIsTaken :
    (alone [] (.mli m12)).instances[(alone [] (.mli m12)).target]? = some (.mli m12) ∧ m12.faulted = false ∧ m12.N ≤ 12 ∧
      (∀ q ∈ [0, 11], q < m12.N) := by decide
theorem witness_OnlyIndexRequestsFault :
    exec (.bit 12) (alone [] (.mli m12)) =
        .next ((alone [] (.mli m12)).answered (.mli (raiseFaulted m12)) (.fault .index 12)) ∧
      ((alone [] (.mli m12)).answered (.mli (raiseFaulted m12)) (.fault .index 12)).outputs =
        .response (alone [] (.mli m12)).target (.fault .index 12) :: (alone [] (.mli m12)).outputs := ⟨rfl, rfl⟩
theorem witness_FaultedInstanceIsStuck :
    (asked (.mli (raiseFaulted m12)) (tuple 0x5#4)).pending = .request 0 (tuple 0x5#4) :: [] ∧
      (asked (.mli (raiseFaulted m12)) (tuple 0x5#4)).instances[0]? = some (.mli (raiseFaulted m12)) ∧
      (raiseFaulted m12).faulted = true := by decide
/-- Both ways: the reset event of the faulted instance, and a step that is not one. -/
theorem witness_OnlyResetClearsFaulted :
    (∃ t, step faultedWithReset = .next t) ∧ faultedWithReset.instances[0]? = some (.mli { m12 with faulted := true }) ∧
    (∃ t, step { faultedWithReset with pending := [] } = .next t) := ⟨⟨_, rfl⟩, rfl, ⟨_, rfl⟩⟩

theorem witness_RequestFrame : ∃ t, exec (.setBit 11 true) (alone [] (.mli m12)) = .next t := ⟨_, rfl⟩
theorem witness_ReadingRequestsChangeNothing :
    (Instr.popcount).op ∈ [Op.state, .bit, .popcount, .parity, .parityTop, .toU64, .equal] ∧
    exec .popcount (alone [] (.mli m12)) = .next ((alone [] (.mli m12)).answered (.mli m12) (.ok (.rcount 3))) ∧
    ((alone [] (.mli m12)).answered (.mli m12) (.ok (.rcount 3))).outputs =
      .response (alone [] (.mli m12)).target (.ok (.rcount 3)) :: (alone [] (.mli m12)).outputs := ⟨by decide, rfl, rfl⟩

/-- Two instances, and a second state that holds the same addressed instance elsewhere. -/
def pair : State := { alone [] (.mli m12) with instances := [.mli m12, .mli m16] }

theorem witness_OutcomeDependsOnInstanceAlone :
    (alone [] (.mli m16)).platform = { pair with target := 1 }.platform ∧
    (alone [] (.mli m16)).instances[(alone [] (.mli m16)).target]? =
      { pair with target := 1 }.instances[{ pair with target := 1 }.target]? := by decide
theorem witness_RequestsToDifferentInstancesCommute :
    (0 : Nat) ≠ 1 ∧ ∃ t u, exec .complement { pair with target := 0 } = .next t ∧
      exec (.shr1 true) { t with target := 1 } = .next u := ⟨by decide, _, _, rfl, rfl⟩
/-- Also a run with a fault on record that is reset, and one with a mark. -/
theorem witness_ParametersNeverChange :
    (∃ t, step faultedWithReset = .next t) ∧ faultedWithReset.instances[0]? = some (.mli { m12 with faulted := true }) ∧
    (∃ t, step { faultedWithReset with outputs := [.response 0 (.fault .index 12)] } = .next t) ∧
    (∃ r ∈ responsesOf 0 [.response 0 (.fault .index 12)], r.status = 1#1) ∧
    (∃ t, step { faultedWithReset with marks := [.noStep 0] } = .next t) ∧
    (∃ m ∈ [Mark.noStep 0], m.index = 0) :=
  ⟨⟨_, rfl⟩, rfl, ⟨_, rfl⟩, ⟨.fault .index 12, by decide, rfl⟩, ⟨_, rfl⟩, ⟨_, List.mem_singleton.2 rfl, rfl⟩⟩
theorem witness_EngineChangesOnlyByNextOrReset :
    (∃ t, step (asked (.small e3) (tuple 0x0#4)) = .next t) ∧
    (asked (.small e3) (tuple 0x0#4)).instances[0]? = some (.small e3) ∧ (Instance.small e3).isEngine = true :=
  ⟨⟨_, rfl⟩, rfl, rfl⟩
theorem witness_DuplicateEvolvesIndependently :
    (alone [] (.mli m12)).instances[0]? = some (.mli m12) ∧
    (∃ t, exec .complement { (alone [] (.mli m12)).duplicate 0 with target := 0 } = .next t) ∧
    (∃ t, exec .complement { (alone [] (.mli m12)).duplicate 0 with target := 1 } = .next t) :=
  ⟨rfl, ⟨_, rfl⟩, ⟨_, rfl⟩⟩
theorem witness_NoMoveChangesNothing : (alone [] (.mli m12)).pending = [] := rfl

theorem witness_StepKeepsInvariant :
    (asked (.mli m12) (tuple 0x6#4)).Inv ∧ ∃ t, step (asked (.mli m12) (tuple 0x6#4)) = .next t := by
  refine ⟨?_, _, rfl⟩
  intro inst h
  rw [show inst = .mli m12 from List.mem_singleton.1 h]
  exact ready_m12.2.2

theorem witness_SmallStrategiesAreNextN : wellFormedTaps 3 [3, 2] = true ∧ 3 ≤ 8 ∧ (7#8).toNat < 2 ^ 3 := by decide
theorem witness_BigStrategiesAreNextN :
    wellFormedTaps 12 [12, 6, 4, 1] = true ∧ 1 ≤ 8 ∧ ([0x00#8, 0x0F#8]).length = limbCount 12 8 ∧
      limbsVal [0x00#8, 0x0F#8] < 2 ^ 12 := by decide
theorem witness_SmallAndBigAgreeAtEveryStep :
    (alone testTable (.small e3)).platform = (alone testTable (.big b3)).platform ∧
    tapTableOk (alone testTable (.small e3)).platform.taps = true ∧ e3.wf (alone testTable (.small e3)).platform ∧
    b3.wf (alone testTable (.big b3)).platform ∧ e3.N = b3.N ∧ e3.S.toNat = 1 ∧ limbsVal b3.S = 1 ∧
    (alone testTable (.small e3)).instances[(alone testTable (.small e3)).target]? = some (.small e3) ∧
    (alone testTable (.big b3)).instances[(alone testTable (.big b3)).target]? = some (.big b3) ∧ e3.N ≤ 64 :=
  ⟨rfl, testTable_ok, ready_e3.2.2, ready_b3.2.2, rfl, by decide, by decide, rfl, rfl, by decide⟩
theorem witness_ValueIndependentOfLimbWidth :
    (alone testTable (.big b12)).platform = (alone testTable (.big (big 12 16 true [0x0F00]))).platform ∧
    tapTableOk (alone testTable (.big b12)).platform.taps = true ∧ b12.wf (alone testTable (.big b12)).platform ∧
    (big 12 16 true [0x0F00]).wf (alone testTable (.big (big 12 16 true [0x0F00]))).platform ∧
    b12.N = (big 12 16 true [0x0F00]).N ∧ limbsVal b12.S = limbsVal (big 12 16 true [0x0F00]).S :=
  ⟨rfl, testTable_ok, ready_b12.2.2, by decide, rfl, by decide⟩

theorem witness_ZeroIsNeverReached : wellFormedTaps 3 [3, 2] = true ∧ 0 < 2 ^ 3 ∧ 7 < 2 ^ 3 := by decide
theorem witness_TransitionIsBijective : wellFormedTaps 4 [4, 3, 2, 1] = true ∧ 15 < 2 ^ 4 ∧ 1 ≤ 3 ∧ 3 ≤ 4 - 1 := by decide
theorem witness_BitZeroObeysTheRecurrence : wellFormedTaps 3 [3, 2] = true ∧ 7 < 2 ^ 3 := by decide

/-- `TAPS(3) = (3, 2)` is maximal: the contract of R155 is met on the Small and on the Big engine. -/
theorem maximal_three : maximalTaps 3 [3, 2] :=
  ⟨by decide, fun k h0 h7 => (show ∀ k, k < 7 → 0 < k → iterNextN 3 [3, 2] k 1 ≠ 1 by decide) k h7 h0⟩
theorem maximal_testTable_three : maximalTaps 3 (tapEntry testTable 3) := by rw [testTable_three]; exact maximal_three
theorem witness_PeriodIsMaximal :
    (alone testTable (.small e3)).instances[(alone testTable (.small e3)).target]? = some (.small e3) ∧
    (Instance.small e3).isEngine = true ∧ (Instance.small e3).wf (alone testTable (.small e3)).platform ∧
    (Instance.small e3).value = 1 ∧
    maximalTaps (Instance.small e3).width (tapEntry (alone testTable (.small e3)).platform.taps (Instance.small e3).width) :=
  ⟨rfl, rfl, ready_e3.2, by decide, maximal_testTable_three⟩
theorem witness_ResetRestartsTheSequence :
    ({ alone testTable (.big b12) with pending := [.reset 0] } : State).pending = .reset 0 :: [] ∧
    ({ alone testTable (.big b12) with pending := [.reset 0] } : State).instances[0]? = some (.big b12) ∧
    (Instance.big b12).isEngine = true ∧ (Instance.big b12).wf (alone testTable (.big b12)).platform :=
  ⟨rfl, rfl, rfl, ready_b12.2⟩
theorem witness_FullCycleOfWidthThree : (1 : Nat) < 2 ∧ (7 : Nat) < 8 := by decide

end Sys2Proof.Machine.Tests
end

section
/-! PROOFS. The decoder of 30_encoding.md, said once per case, and the statements of that family settled here:
the operation table (R73 to R82, R86) and the ports that are not significant (R83). -/

namespace Sys2Proof.Machine

/-! ### The decoder, case by case -/

@[simp] theorem allFit_iff {n : Nat} {xs : List Nat} : allFit n xs = true ↔ ∀ x ∈ xs, x < 2 ^ n := by
  simp [allFit]

@[simp] theorem opOfCode_code (op : Op) : opOfCode op.code = some op := by cases op <;> rfl

theorem opOfCode_eq_none_iff (c : OpCode) : opOfCode c = none ↔ 12 ≤ c.toNat := by revert c; decide

theorem reservedCnt_iff {op : Op} {p : Ports} : reservedCnt op p = true ↔ op.format = .fp ∧ 4 < p.cnt.toNat := by
  cases h : op.format <;> simp [reservedCnt, h]

theorem positions_length_le (p : Ports) : p.positions.length ≤ 4 := List.length_take_le' _ _

/-- A position list of format FP fits its ports when every position does (R78). -/
theorem positions_wf {sh : Shape} {p : Ports} (h : ∀ x ∈ p.positions, x < 2 ^ sh.indexWidth) :
    (decide (p.positions.length ≤ 4) && allFit sh.indexWidth p.positions) = true := by
  rw [Bool.and_eq_true, decide_eq_true_iff, allFit_iff]
  exact ⟨positions_length_le p, h⟩

/-- The select of a row, a count that is not reserved and operands that fit: the row's request (R73, R82). -/
theorem decode_row {sh : Shape} {p : Ports} {op : Op} (hop : p.op = op.code) (hc : reservedCnt op p = false)
    (hw : (instrOf op p).wf sh = true) : decode sh p = .instr (instrOf op p) := by
  simp [decode, hop, hc, hw]

theorem decode_reservedOp {sh : Shape} {p : Ports} (h : 12 ≤ p.op.toNat) : decode sh p = .reject .reservedOp := by
  simp [decode, (opOfCode_eq_none_iff p.op).2 h]

/-! ### The operation table -/

/-- Settles O13: one use of the row lemma per operation, with the row's own operand bounds. -/
theorem operationTableDecodes : Obligations.OperationTableDecodes := by
  intro sh p
  refine ⟨fun h => decode_row (op := .state) h rfl rfl, fun h => decode_row (op := .next) h rfl rfl,
    fun h => decode_row (op := .toU64) h rfl rfl,
    fun h hi => decode_row (op := .bit) h rfl (decide_eq_true hi),
    fun h hi => decode_row (op := .setBit) h rfl (decide_eq_true hi),
    fun h => decode_row (op := .popcount) h rfl rfl, fun h => decode_row (op := .complement) h rfl rfl, ?parity,
    fun h => decode_row (op := .shr1) h rfl rfl, fun h hl => decode_row (op := .shr1p) h rfl (decide_eq_true hl),
    ?equal, decode_reservedOp⟩
  case parity =>
    rintro _ rfl hcnt hfit
    have hc : decide (4 < p.cnt.toNat) = false := decide_eq_false (Nat.not_lt.2 hcnt)
    exact ⟨fun h => decode_row (op := .parity) h hc (positions_wf hfit),
      fun h => decode_row (op := .parityTop) h hc (positions_wf hfit)⟩
  case equal =>
    intro h hlen hfit
    exact decode_row (op := .equal) h rfl (by simpa [instrOf, Instr.wf] using ⟨hlen, hfit⟩)

/-! ### Ports that are not significant -/

section
variable {p q : Ports}

/-- The request of a row reads its format's ports only (R74 to R81). -/
theorem instrOf_congr {op : Op}
    (hidx : op.format = .fi ∨ op.format = .fiv → p.idx = q.idx)
    (hval : op.format = .fiv ∨ op.format = .fv → p.val = q.val)
    (hpos : op.format = .fp → p.positions = q.positions)
    (hfill : op.format = .fl → p.fill = q.fill)
    (hw : op.format = .fw → p.w = q.w) : instrOf op p = instrOf op q := by
  cases op with
  | state | next | toU64 | popcount | complement => rfl
  | bit => exact congrArg Instr.bit (hidx (.inl rfl))
  | setBit => exact congrArg₂ Instr.setBit (hidx (.inr rfl)) (hval (.inl rfl))
  | parity => exact congrArg Instr.parity (hpos rfl)
  | parityTop => exact congrArg Instr.parityTop (hpos rfl)
  | shr1 => exact congrArg Instr.shr1 (hval (.inr rfl))
  | shr1p => exact congrArg Instr.shr1p (hfill rfl)
  | equal => exact congrArg Instr.equal (hw rfl)

theorem reservedCnt_congr {op : Op} (hcnt : op.format = .fp → p.cnt = q.cnt) :
    reservedCnt op p = reservedCnt op q := by
  rw [Bool.eq_iff_iff, reservedCnt_iff, reservedCnt_iff]
  exact and_congr_right fun h => by rw [hcnt h]

/-- The decoder sees a tuple only through its select, the row's request and the reserved-count check. -/
theorem decode_congr (hop : p.op = q.op)
    (h : ∀ op, opOfCode p.op = some op → reservedCnt op p = reservedCnt op q ∧ instrOf op p = instrOf op q)
    (sh : Shape) : decode sh p = decode sh q := by
  unfold decode
  rw [← hop]
  cases hrow : opOfCode p.op with
  | none => rfl
  | some op =>
    obtain ⟨hc, hi⟩ := h op hrow
    simp only [hc, hi]

/-- A step sees the ports of the presented request only through the decoder. -/
theorem step_request_congr (h : ∀ sh, decode sh p = decode sh q) (s : State) (k : Nat) (rest : List Move) :
    step { s with pending := .request k p :: rest } = step { s with pending := .request k q :: rest } := by
  rw [step_cons rfl, step_cons rfl]
  simp only [clientMove, presentRequest, attend, h]

end

/-- Settles O17: the two tuples decode alike at all port widths, so the step answers alike. -/
theorem insignificantPortsAreIgnored : Obligations.InsignificantPortsAreIgnored := by
  intro s k rest p q hop hsig
  refine step_request_congr (decode_congr hop fun op hrow => ?_) s k rest
  obtain ⟨hidx, hval, hfp, hfill, hw⟩ := hsig op hrow
  exact ⟨reservedCnt_congr fun h => (hfp h).1, instrOf_congr hidx hval (fun h => (hfp h).2) hfill hw⟩

end Sys2Proof.Machine
end

section
/-! PROOFS. The Width-to-Integer Selector of 40_width_selector.md: its table (R101), its one reason to reject (R102),
and the statement of that family settled here (R100). -/

namespace Sys2Proof.Machine

/-! ### The selector, by its table -/

/-- The rows of R101 that name a width, `HAS_U128` aside: `W` stands in the row whose range holds `N`. -/
def SelRow (N W : Nat) : Prop :=
  (1 ≤ N ∧ N ≤ 8 ∧ W = 8) ∨ (9 ≤ N ∧ N ≤ 16 ∧ W = 16) ∨ (17 ≤ N ∧ N ≤ 32 ∧ W = 32) ∨
    (33 ≤ N ∧ N ≤ 64 ∧ W = 64) ∨ (65 ≤ N ∧ N ≤ 128 ∧ W = 128)

/-- `SEL` answers by the table of R101, its last width only with `HAS_U128` (R103). -/
theorem sel_eq_ok_iff {hasU128 : Bool} {N W : Nat} :
    sel hasU128 N = .ok W ↔ SelRow N W ∧ (W = 128 → hasU128 = true) := by
  unfold SelRow
  fun_cases sel hasU128 N with
  | case1 | case8 => simp only [reduceCtorEq, false_iff]; omega
  | case2 | case3 | case4 | case5 => simp only [Elab.ok.injEq]; omega
  | case6 _ _ _ _ _ _ hu => simp only [Elab.ok.injEq, hu, implies_true, and_true]; omega
  | case7 _ _ _ _ _ _ hu => simp only [reduceCtorEq, hu, false_iff, imp_false]; omega

/-- The only reason `SEL` has not to name a width is that there is no native type (R100, R102). -/
theorem sel_eq_ok_or_noNativeType (hasU128 : Bool) (N : Nat) :
    (∃ W, sel hasU128 N = .ok W) ∨ sel hasU128 N = .rejected .noNativeType := by
  fun_cases sel hasU128 N with
  | case1 | case7 | case8 => exact .inr rfl
  | case2 | case3 | case4 | case5 | case6 => exact .inl ⟨_, rfl⟩

/-- The row of `N` names the least native width that holds `N` bits. -/
theorem selRow_iff_least {N W : Nat} :
    SelRow N W ↔ 1 ≤ N ∧ W ∈ [8, 16, 32, 64, 128] ∧ N ≤ W ∧ ∀ W' ∈ [8, 16, 32, 64, 128], N ≤ W' → W ≤ W' := by
  simp only [SelRow, List.mem_cons, List.not_mem_nil, or_false, forall_eq_or_imp, forall_eq]
  omega

/-- Settles O5: the table of R101 is the table of least native widths, and `SEL` rejects for one reason only. -/
theorem selIsSmallestNativeWidth : Obligations.SelIsSmallestNativeWidth := by
  intro hasU128 N
  constructor
  · intro W
    rw [sel_eq_ok_iff, selRow_iff_least]
    simp only [and_assoc]
  · intro hno
    exact (sel_eq_ok_or_noNativeType hasU128 N).resolve_left (not_exists.2 hno)

end Sys2Proof.Machine
end

section
/-! PROOFS. The Multi-Limb Integer of 41_multilimb_integer.md: each request where `FAULTED` is 0 (R113 to
R128), each limb operation as a number or bit by bit (R111), and the statements of that family settled here. -/

namespace Sys2Proof.Machine

/-! ### The requests where `FAULTED` is 0 -/

theorem firstOutOfRange_singleton {N i : Nat} (h : N ≤ i) : firstOutOfRange N [i] = some i :=
  firstOutOfRange_some.2 ⟨h, [], [], rfl, by simp⟩

/-- A list splits at its first position out of range in one way (R217). -/
theorem firstOutOfRange_append {N p : Nat} {pre post : List Nat} (hpre : ∀ q ∈ pre, q < N) (hp : N ≤ p) :
    firstOutOfRange N (pre ++ p :: post) = some p :=
  firstOutOfRange_some.2 ⟨hp, pre, post, rfl, hpre⟩

theorem positionedFill_none {N L fill : Nat} (h0 : fill ≠ 0) (hM : fill ≠ 2 ^ topOffset N L) :
    positionedFill N L fill = none := by simp [positionedFill, h0, hM]

section
variable {s : State} {m : Mli} (ht : s.instances[s.target]? = some (.mli m)) (hf : m.faulted = false)
include ht hf

/-- The checks of R220 pass, and the meaning runs at the addressed MLI. -/
theorem serve_onMli {op : Op} (f : Mli → Out) (ho : (Instance.mli m).offers op = true) :
    serve op s (onMli f) = f m := serve_ready (onMli f) ht hf ho

theorem exec_bit_inRange {i : Nat} (h : i < m.N) :
    exec (.bit i) s = .next (s.answered (.mli m) (.ok (.rbit (bitAt m.V i)))) :=
  (serve_onMli ht hf _ rfl).trans (checkIndexes_inRange _ (by simpa using h))

theorem exec_bit_outOfRange {i : Nat} (h : m.N ≤ i) :
    exec (.bit i) s = .next (s.answered (.mli (raiseFaulted m)) (.fault .index i)) :=
  (serve_onMli ht hf _ rfl).trans (checkIndexes_outOfRange _ (firstOutOfRange_singleton h))

theorem exec_setBit_inRange {i : Nat} {b : Bool} (h : i < m.N) :
    exec (.setBit i b) s = .next (s.answered (.mli { m with V := setBitAt m.V i b }) (.ok .none)) :=
  (serve_onMli ht hf _ rfl).trans (checkIndexes_inRange _ (by simpa using h))

theorem exec_setBit_outOfRange {i : Nat} {b : Bool} (h : m.N ≤ i) :
    exec (.setBit i b) s = .next (s.answered (.mli (raiseFaulted m)) (.fault .index i)) :=
  (serve_onMli ht hf _ rfl).trans (checkIndexes_outOfRange _ (firstOutOfRange_singleton h))

theorem exec_parity_inRange {ps : List Nat} (h : ∀ p ∈ ps, p < m.N) :
    exec (.parity ps) s = .next (s.answered (.mli m) (.ok (.rbit (parityAt m.V ps)))) :=
  (serve_onMli ht hf _ rfl).trans (checkIndexes_inRange _ h)

theorem exec_parity_outOfRange {ps : List Nat} {p : Nat} (h : firstOutOfRange m.N ps = some p) :
    exec (.parity ps) s = .next (s.answered (.mli (raiseFaulted m)) (.fault .index p)) :=
  (serve_onMli ht hf _ rfl).trans (checkIndexes_outOfRange _ h)

theorem exec_parityTop_inRange {ps : List Nat} (h : ∀ p ∈ ps, p < m.N) :
    exec (.parityTop ps) s = .next (s.answered (.mli m) (.ok (.rlimb m.L (parityTopAt m.N m.V ps)))) :=
  (serve_onMli ht hf _ rfl).trans (checkIndexes_inRange _ h)

theorem exec_parityTop_outOfRange {ps : List Nat} {p : Nat} (h : firstOutOfRange m.N ps = some p) :
    exec (.parityTop ps) s = .next (s.answered (.mli (raiseFaulted m)) (.fault .index p)) :=
  (serve_onMli ht hf _ rfl).trans (checkIndexes_outOfRange _ h)

theorem exec_popcount_mli :
    exec .popcount s = .next (s.answered (.mli m) (.ok (.rcount (popcountLimbs m.V)))) :=
  serve_onMli ht hf _ rfl

theorem exec_complement_mli :
    exec .complement s = .next (s.answered (.mli { m with V := complementLimbs m.N m.V }) (.ok .none)) :=
  serve_onMli ht hf _ rfl

theorem exec_shr1_mli (b : Bool) :
    exec (.shr1 b) s = .next (s.answered (.mli { m with V := shr1Limbs m.N m.V b }) (.ok .none)) :=
  serve_onMli ht hf _ rfl

theorem exec_shr1p_positioned {fill : Nat} (h : fill = 0 ∨ fill = 2 ^ topOffset m.N m.L) :
    exec (.shr1p fill) s =
      .next (s.answered (.mli { m with V := shr1pLimbs m.V (BitVec.ofNat m.L fill) }) (.ok .none)) := by
  refine (serve_onMli ht hf _ rfl).trans ?_
  rw [positionedFill_some.2 ⟨h, rfl⟩]
  rfl

theorem exec_shr1p_badFill {fill : Nat} (h0 : fill ≠ 0) (hM : fill ≠ 2 ^ topOffset m.N m.L) :
    exec (.shr1p fill) s = .refused .badFill := by
  refine (serve_onMli ht hf _ rfl).trans ?_
  rw [positionedFill_none h0 hM]

theorem exec_equal_comparand {w : List Nat} {c : List (Limb m.L)} (h : comparand m.N m.L w = some c) :
    exec (.equal w) s = .next (s.answered (.mli m) (.ok (.rbit (equalLimbs m.V c)))) := by
  refine (serve_onMli ht hf _ rfl).trans ?_
  rw [h]
  rfl

theorem exec_equal_badOperand {w : List Nat} (h : comparand m.N m.L w = none) :
    exec (.equal w) s = .refused .badOperand := by
  refine (serve_onMli ht hf _ rfl).trans ?_
  rw [h]

/-- `TO_U64` has a meaning where the value is known to fit 64 bits (R127). -/
theorem exec_toU64_mli (h : m.N ≤ 64 ∨ limbsVal m.V < 2 ^ 64) :
    exec .toU64 s = .next (s.answered (.mli m) (.ok (.r64 (toU64Limbs m.V)))) := by
  refine (serve_ready _ ht hf rfl).trans ?_
  dsimp only
  split
  · rfl
  · rw [if_pos (h.resolve_left ‹_›)]
    rfl

theorem exec_toU64_wide (hN : 64 < m.N) (h : 2 ^ 64 ≤ limbsVal m.V) : exec .toU64 s = .refused .wideU64 := by
  refine (serve_ready _ ht hf rfl).trans ?_
  dsimp only
  rw [if_neg (Nat.not_le.2 hN), if_neg (Nat.not_lt.2 h)]

end

/-! ### `TO_U64` -/

theorem exec_toU64_big {s : State} {e : BigEngine} (ht : s.instances[s.target]? = some (.big e)) (hN : e.N ≤ 64) :
    exec .toU64 s = .next (s.answered (.big e) (.ok (.r64 (toU64Limbs e.S)))) :=
  serve_ready _ ht rfl (decide_eq_true hN)

theorem exec_toU64_big_notOffered {s : State} {e : BigEngine} (ht : s.instances[s.target]? = some (.big e))
    (hN : 64 < e.N) : exec .toU64 s = .refused .notOffered :=
  serve_notOffered _ ht rfl (decide_eq_false (Nat.not_le.2 hN))

theorem toU64Limbs_toNat {L : Nat} {V : List (Limb L)} (h : limbsVal V < 2 ^ 64) :
    (toU64Limbs V).toNat = limbsVal V := by
  rw [toU64Limbs, BitVec.toNat_ofNat, Nat.mod_eq_of_lt h]

/-- A value of at most 64 bits is below `2^64`. -/
theorem lt_two_pow_64 {v N : Nat} (hv : v < 2 ^ N) (hN : N ≤ 64) : v < 2 ^ 64 :=
  hv.trans_le (Nat.pow_le_pow_right (by decide) hN)

/-- Settles O24: the cases of R127 and R193, in each of which the value fits 64 bits or the request is refused. -/
theorem toU64IsTheValueOrRefused : Obligations.ToU64IsTheValueOrRefused := by
  intro s
  refine ⟨?big, ?mli, fun sh p h => decode_row (op := .toU64) h rfl rfl⟩
  case big =>
    rintro e ht ⟨-, ⟨-, -, hval⟩, -⟩
    exact ⟨fun hN => ⟨_, exec_toU64_big ht hN, toU64Limbs_toNat (lt_two_pow_64 hval hN)⟩,
      exec_toU64_big_notOffered ht⟩
  case mli =>
    rintro m ht hf ⟨-, -, -, hval⟩
    exact ⟨fun h => ⟨_, exec_toU64_mli ht hf h, toU64Limbs_toNat (h.elim (lt_two_pow_64 hval) id)⟩,
      exec_toU64_wide ht hf⟩

/-! ### `BIT` and `SET_BIT` -/

theorem admittedLimbWidth_pos {hasU128 : Bool} {L : Nat} (h : admittedLimbWidth hasU128 L = true) : 1 ≤ L := by
  simp only [admittedLimbWidth, Bool.or_eq_true, Bool.and_eq_true, beq_iff_eq] at h
  omega

/-- Settles O25: the answered bit is the value's bit (R111). -/
theorem bitAnswersTheBit : Obligations.BitAnswersTheBit := by
  rintro s m idx ht hf ⟨-, hadm, -, -⟩
  refine ⟨fun h => ?_, exec_bit_outOfRange ht hf, fun sh p h hi => decode_row (op := .bit) h rfl (decide_eq_true hi)⟩
  rw [exec_bit_inRange ht hf h, limbsVal_testBit (admittedLimbWidth_pos hadm)]

section
variable {L : Nat}

theorem topOffset_lt (N : Nat) (hL : 1 ≤ L) : topOffset N L < L := Nat.mod_lt _ hL

theorem limbAt_eq_zero {V : List (Limb L)} {j : Nat} (h : V.length ≤ j) : limbAt V j = 0#L :=
  List.getD_eq_default _ _ h

theorem limbAt_set_self {V : List (Limb L)} {k : Nat} (h : k < V.length) (v : Limb L) : limbAt (V.set k v) k = v := by
  simp [limbAt, List.getD_eq_getElem?_getD, h]

theorem limbAt_set_ne {V : List (Limb L)} {j k : Nat} (h : j ≠ k) (v : Limb L) :
    limbAt (V.set k v) j = limbAt V j := by
  simp [limbAt, List.getD_eq_getElem?_getD, h.symm]

/-- An index below `N` lies in one of the `K` limbs (R111). -/
theorem div_lt_limbCount {N i : Nat} (hL : 1 ≤ L) (h : i < N) : i / L < limbCount N L := by
  obtain ⟨-, hN, -⟩ := limbCount_bounds (N := N) (by omega) hL
  exact (Nat.div_lt_iff_lt_mul hL).2 (h.trans_le hN)

/-- A one-bit word moved to offset `o` has no bit but that one. -/
theorem bitWord_shiftLeft_getLsbD (b : Bool) {o : Nat} (ho : o < L) (p : Nat) :
    (bitWord L b <<< o).getLsbD p = (decide (p = o) && b) := by
  cases b
  · simp [bitWord]
  · rw [bitWord, if_pos rfl, BitVec.getLsbD_shiftLeft, BitVec.getLsbD_one, Bool.eq_iff_iff]
    simp only [Bool.and_eq_true, Bool.not_eq_true', decide_eq_true_iff, decide_eq_false_iff_not, and_true]
    omega

/-- The masked write of R115, on one limb. -/
theorem writeBit_getLsbD (v : Limb L) (b : Bool) {o p : Nat} (ho : o < L) (hp : p < L) :
    ((v &&& ~~~(1#L <<< o)) ||| (bitWord L b <<< o)).getLsbD p = if p = o then b else v.getLsbD p := by
  have hone : (1#L <<< o).getLsbD p = decide (p = o) := by
    simpa [bitWord] using bitWord_shiftLeft_getLsbD true ho p
  rw [BitVec.getLsbD_or, BitVec.getLsbD_and, BitVec.getLsbD_not, bitWord_shiftLeft_getLsbD b ho, hone]
  by_cases h : p = o <;> simp [h, hp]

/-- `SET_BIT` writes no limb but that of its index (R115). -/
theorem limbAt_setBitAt_ne {V : List (Limb L)} {i j : Nat} (h : j ≠ i / L) (b : Bool) :
    limbAt (setBitAt V i b) j = limbAt V j := limbAt_set_ne h _

theorem bitAt_setBitAt (hL : 1 ≤ L) {V : List (Limb L)} {i : Nat} (hi : i / L < V.length) (b : Bool) (j : Nat) :
    bitAt (setBitAt V i b) j = if j = i then b else bitAt V j := by
  unfold bitAt
  by_cases hlimb : j / L = i / L
  · rw [hlimb, setBitAt, limbAt_set_self hi, writeBit_getLsbD _ _ (Nat.mod_lt _ hL) (Nat.mod_lt _ hL)]
    have : j % L = i % L ↔ j = i := by
      have hi := Nat.div_add_mod i L
      have hj := Nat.div_add_mod j L
      rw [hlimb] at hj
      omega
    simp only [this]
  · rw [limbAt_setBitAt_ne hlimb, if_neg fun h => hlimb (congrArg (· / L) h)]

end

/-- Settles O26: the masked write changes one bit of one limb. -/
theorem setBitWritesOneBit : Obligations.SetBitWritesOneBit := by
  rintro s m idx val ht hf ⟨-, hadm, hlen, -⟩
  have hL := admittedLimbWidth_pos hadm
  refine ⟨fun h => ⟨_, exec_setBit_inRange ht hf h, setBitAt_length _ _ _,
      fun j hj => limbAt_setBitAt_ne hj val, fun i => ?_⟩,
    exec_setBit_outOfRange ht hf, fun sh p h hi => decode_row (op := .setBit) h rfl (decide_eq_true hi)⟩
  rw [limbsVal_testBit hL, limbsVal_testBit hL, bitAt_setBitAt hL (hlen ▸ div_lt_limbCount hL h)]

/-! ### `POPCOUNT` -/

section
variable {L : Nat}

theorem bitAt_cons_lt (v : Limb L) (V : List (Limb L)) {i : Nat} (h : i < L) : bitAt (v :: V) i = v.getLsbD i := by
  simp [bitAt, Nat.div_eq_of_lt h, Nat.mod_eq_of_lt h]

theorem bitAt_cons_add (hL : 1 ≤ L) (v : Limb L) (V : List (Limb L)) (i : Nat) :
    bitAt (v :: V) (L + i) = bitAt V i := by
  simp [bitAt, Nat.add_div_left i hL]

/-- The population counts of the limbs count every bit the limbs hold (R116). -/
theorem popcountLimbs_eq_countP (hL : 1 ≤ L) (V : List (Limb L)) :
    popcountLimbs V = (List.range (L * V.length)).countP (bitAt V) := by
  induction V with
  | nil => rfl
  | cons v V ih =>
    have hlow : (List.range L).countP (bitAt (v :: V)) = popcountLimb v :=
      List.countP_congr fun i hi => by rw [bitAt_cons_lt v V (List.mem_range.1 hi)]
    have hhigh : bitAt (v :: V) ∘ (L + ·) = bitAt V := funext (bitAt_cons_add hL v V)
    rw [List.length_cons, Nat.mul_succ, Nat.add_comm, List.range_add, List.countP_append, List.countP_map, hlow,
      hhigh, ← ih]
    rfl

/-- A value below `2^N` has no bit at `N` or above to count. -/
theorem countP_range_of_lt {v N n : Nat} (hv : v < 2 ^ N) (hn : N ≤ n) :
    (List.range n).countP v.testBit = (List.range N).countP v.testBit := by
  obtain ⟨d, rfl⟩ := Nat.exists_eq_add_of_le hn
  rw [List.range_add, List.countP_append, List.countP_map, Nat.add_eq_left, List.countP_eq_zero]
  intro i _
  simpa using Nat.testBit_lt_two_pow (hv.trans_le (Nat.pow_le_pow_right (by decide) (Nat.le_add_right N i)))

/-- `POPCOUNT` counts the set bits of the value (R116). -/
theorem popcountLimbs_eq_countP_testBit {N : Nat} (hL : 1 ≤ L) {V : List (Limb L)} (hN : N ≤ V.length * L)
    (hval : limbsVal V < 2 ^ N) : popcountLimbs V = (List.range N).countP (limbsVal V).testBit := by
  have hbits : bitAt V = (limbsVal V).testBit := funext fun i => (limbsVal_testBit hL V i).symm
  rw [popcountLimbs_eq_countP hL, hbits, Nat.mul_comm, countP_range_of_lt hval hN]

end

/-- Settles O27: the limbs' counts add up to the count of the value's bits, of which there are `N`. -/
theorem popcountCountsSetBits : Obligations.PopcountCountsSetBits := by
  rintro s m ht hf ⟨hN, hadm, hlen, hval⟩
  have hL := admittedLimbWidth_pos hadm
  obtain ⟨-, hK, -⟩ := limbCount_bounds hN hL
  have hcount := popcountLimbs_eq_countP_testBit hL (hlen ▸ hK) hval
  have hle : popcountLimbs m.V ≤ m.N := by
    rw [hcount]
    exact List.countP_le_length.trans_eq List.length_range
  exact ⟨⟨_, exec_popcount_mli ht hf, hcount, hle, hle.trans_lt Nat.lt_log2_self⟩,
    fun sh p h => decode_row (op := .popcount) h rfl rfl⟩

/-! ### `COMPLEMENT` -/

section
variable {L : Nat}

theorem limbAt_complementLimbs {N j : Nat} {V : List (Limb L)} (h : j < V.length) :
    limbAt (complementLimbs N V) j =
      if j = limbCount N L - 1 then ~~~(limbAt V j) &&& topMask N L else ~~~(limbAt V j) := by
  by_cases hj : j = limbCount N L - 1
  · subst hj
    simp [complementLimbs, limbAt, List.getD_eq_getElem?_getD, h]
  · simp [complementLimbs, limbAt, List.getD_eq_getElem?_getD, h, hj, Ne.symm hj]

theorem topMask_getLsbD {N p : Nat} (hL : 1 ≤ L) :
    (topMask N L).getLsbD p = decide (p ≤ topOffset N L) := by
  have hM := topOffset_lt N hL
  rw [topMask, BitVec.getLsbD_ofNat, Nat.testBit_two_pow_sub_one, ← Bool.decide_and, decide_eq_decide]
  omega

/-- The bits below `N` are those of the limbs below the top one and the used bits of the top limb (R111). -/
theorem lt_width_iff {N : Nat} (hN : 1 ≤ N) (hL : 1 ≤ L) (i : Nat) :
    i < N ↔ i / L < limbCount N L - 1 ∨ (i / L = limbCount N L - 1 ∧ i % L ≤ topOffset N L) := by
  obtain ⟨-, hM, hNeq⟩ := topBit_position hN hL
  have hi := Nat.div_add_mod i L
  have hmod := Nat.mod_lt i hL
  rw [Nat.mul_comm] at hi
  rcases Nat.lt_trichotomy (i / L) (limbCount N L - 1) with h | h | h
  · have := Nat.mul_le_mul_right L (Nat.succ_le_of_lt h)
    rw [Nat.succ_mul] at this
    omega
  · rw [h] at hi
    omega
  · have := Nat.mul_le_mul_right L (Nat.succ_le_of_lt h)
    rw [Nat.succ_mul] at this
    omega

theorem bitAt_complementLimbs {N : Nat} (hN : 1 ≤ N) (hL : 1 ≤ L) {V : List (Limb L)}
    (hlen : V.length = limbCount N L) (i : Nat) :
    bitAt (complementLimbs N V) i = (decide (i < N) && !bitAt V i) := by
  obtain ⟨hK, -, -⟩ := limbCount_bounds hN hL
  have hmod := Nat.mod_lt i hL
  simp only [lt_width_iff hN hL i, bitAt]
  rcases Nat.lt_trichotomy (i / L) (limbCount N L - 1) with h | h | h
  · rw [limbAt_complementLimbs (by omega), if_neg h.ne]
    simp [h, hmod]
  · rw [limbAt_complementLimbs (by omega), if_pos h, BitVec.getLsbD_and, topMask_getLsbD hL]
    simp [h, hmod, Bool.and_comm]
  · rw [limbAt_eq_zero (by rw [complementLimbs_length]; omega)]
    simp [h.not_gt, h.ne']

theorem limbsVal_complementLimbs {N : Nat} (hN : 1 ≤ N) (hL : 1 ≤ L) {V : List (Limb L)}
    (hlen : V.length = limbCount N L) (hval : limbsVal V < 2 ^ N) :
    limbsVal (complementLimbs N V) = 2 ^ N - 1 - limbsVal V := by
  refine Nat.eq_of_testBit_eq fun i => ?_
  rw [Nat.sub_sub, Nat.add_comm 1, Nat.testBit_two_pow_sub_succ hval, limbsVal_testBit hL, limbsVal_testBit hL,
    bitAt_complementLimbs hN hL hlen]

end

/-- Settles O28: every bit below `N` is flipped and no other is set. -/
theorem complementFlipsTheValue : Obligations.ComplementFlipsTheValue := by
  rintro s m ht hf ⟨hN, hadm, hlen, hval⟩
  exact ⟨⟨_, exec_complement_mli ht hf, complementLimbs_length _ _,
      limbsVal_complementLimbs hN (admittedLimbWidth_pos hadm) hlen hval⟩,
    fun sh p h => decode_row (op := .complement) h rfl rfl⟩

/-! ### `PARITY` and `PARITY_TOP` -/

section
variable {L : Nat}

/-- `parity(V, list)` is 1 exactly when an odd number of the listed bits of the value are set (R119). -/
theorem parityAt_eq_setPositions (hL : 1 ≤ L) (V : List (Limb L)) (ps : List Nat) :
    parityAt V ps = decide (setPositions (limbsVal V) ps % 2 = 1) := by
  have hbits : bitAt V = fun p => (limbsVal V).testBit p := funext fun p => (limbsVal_testBit hL V p).symm
  rw [parityAt_eq_odd, hbits]
  rfl

/-- A list in format FP with a count that is not reserved decodes to its request (R78). -/
theorem decode_positions {sh : Shape} {q : Ports} {op : Op} (hop : q.op = op.code) (hcnt : q.cnt.toNat ≤ 4)
    (hw : (instrOf op q).wf sh = true) : decode sh q = .instr (instrOf op q) := by
  refine decode_row hop ?_ hw
  rw [← Bool.not_eq_true, reservedCnt_iff]
  exact fun h => Nat.not_lt.2 hcnt h.2

theorem bitWord_shiftLeft_toNat (b : Bool) {o : Nat} (ho : o < L) :
    (bitWord L b <<< o).toNat = b.toNat * 2 ^ o := by
  have hlt : 2 ^ o < 2 ^ L := Nat.pow_lt_pow_right (by decide) ho
  rw [BitVec.toNat_shiftLeft, bitWord_toNat (by omega), Nat.shiftLeft_eq, Nat.mod_eq_of_lt]
  cases b <;> simp [hlt]

/-- `parity_top(V, list)` is the parity as a number, times `2^M` (R120). -/
theorem parityTopAt_toNat {N : Nat} (hL : 1 ≤ L) (V : List (Limb L)) (ps : List Nat) :
    (parityTopAt N V ps).toNat = (setPositions (limbsVal V) ps % 2) * 2 ^ topOffset N L := by
  rw [parityTopAt, bitWord_shiftLeft_toNat _ (topOffset_lt N hL), parityAt_eq_setPositions hL]
  congr 1
  rcases Nat.mod_two_eq_zero_or_one (setPositions (limbsVal V) ps) with h | h <;> simp [h]

end

/-- Settles O30: the XOR chain is an odd count, and the index check finds the first position out of range. -/
theorem parityIsOddCount : Obligations.ParityIsOddCount := by
  rintro s m ps ht hf ⟨-, hadm, -, -⟩
  refine ⟨fun h => ?_, ?_, fun sh q h hcnt hfit => decode_positions (op := .parity) h hcnt (positions_wf hfit)⟩
  · rw [exec_parity_inRange ht hf h, parityAt_eq_setPositions (admittedLimbWidth_pos hadm)]
  · rintro pre p post rfl hpre hp
    exact exec_parity_outOfRange ht hf (firstOutOfRange_append hpre hp)

/-- Settles O31: the odd count of O30 moved to offset `M`. -/
theorem parityTopIsShiftedParity : Obligations.ParityTopIsShiftedParity := by
  rintro s m ps ht hf ⟨-, hadm, -, -⟩
  refine ⟨fun h => ⟨_, exec_parityTop_inRange ht hf h, parityTopAt_toNat (admittedLimbWidth_pos hadm) _ _⟩, ?_,
    fun sh q h hcnt hfit => decode_positions (op := .parityTop) h hcnt (positions_wf hfit)⟩
  rintro pre p post rfl hpre hp
  exact exec_parityTop_outOfRange ht hf (firstOutOfRange_append hpre hp)

/-! ### `SHR1` and `SHR1P` -/

section
variable {L : Nat}

/-- Half a value below `2^N` with a bit put at `N - 1`, bit by bit (R123). -/
theorem half_add_topBit_testBit {v N : Nat} (hN : 1 ≤ N) (hv : v < 2 ^ N) (b : Bool) (i : Nat) :
    (v / 2 + b.toNat * 2 ^ (N - 1)).testBit i = (v.testBit (i + 1) || (decide (i = N - 1) && b)) := by
  have hhalf : v / 2 < 2 ^ (N - 1) := by
    have : 2 ^ N = 2 * 2 ^ (N - 1) := (mul_pow_sub_one (by omega) 2).symm
    omega
  have htop : (decide (N - 1 ≤ i) && (decide (i - (N - 1) = 0) && b)) = (decide (i = N - 1) && b) := by
    rw [← Bool.and_assoc, ← Bool.decide_and]
    congr 2
    rw [eq_iff_iff]
    omega
  rw [Nat.add_comm, Nat.mul_comm, Nat.two_pow_add_eq_or_of_lt hhalf, Nat.testBit_or, Nat.testBit_two_pow_mul,
    Nat.testBit_bool_toNat, htop, Nat.testBit_div_two, Bool.or_comm]

/-- The shift with a boolean placed at offset `M` of the top limb is half the value with the boolean at bit `N - 1`
(R123). -/
theorem limbsVal_shiftLimbs {N : Nat} (hN : 1 ≤ N) (hL : 1 ≤ L) {V : List (Limb L)}
    (hlen : V.length = limbCount N L) (hval : limbsVal V < 2 ^ N) (b : Bool) :
    limbsVal (shiftLimbs (bitWord L b <<< topOffset N L) V) = limbsVal V / 2 + b.toNat * 2 ^ (N - 1) := by
  obtain ⟨-, hM, hNeq⟩ := topBit_position hN hL
  have hV : V ≠ [] := List.ne_nil_of_length_pos (hlen ▸ (limbCount_bounds hN hL).1)
  have hfill : ∀ i, (decide (L * (limbCount N L - 1) ≤ i) &&
      (bitWord L b <<< topOffset N L).getLsbD (i - L * (limbCount N L - 1))) = (decide (i = N - 1) && b) := by
    intro i
    rw [Nat.mul_comm] at hNeq
    rw [bitWord_shiftLeft_getLsbD b hM, ← Bool.and_assoc, ← Bool.decide_and]
    congr 2
    rw [eq_iff_iff]
    omega
  refine Nat.eq_of_testBit_eq fun i => ?_
  rw [limbsVal_shiftLimbs_testBit hL _ _ hV, half_add_topBit_testBit hN hval, hlen, hfill]

/-- A fill of 0 or `2^o` is a boolean moved to offset `o` (R124). -/
theorem ofNat_eq_bitWord_shiftLeft {fill o : Nat} (ho : o < L) (h : fill = 0 ∨ fill = 2 ^ o) :
    ∃ b : Bool, BitVec.ofNat L fill = bitWord L b <<< o ∧ fill / 2 ^ o = b.toNat := by
  obtain ⟨b, rfl⟩ : ∃ b : Bool, fill = b.toNat * 2 ^ o := by
    obtain rfl | rfl := h
    · exact ⟨false, (Nat.zero_mul _).symm⟩
    · exact ⟨true, (Nat.one_mul _).symm⟩
  refine ⟨b, ?_, Nat.mul_div_cancel _ (Nat.two_pow_pos o)⟩
  rw [← bitWord_shiftLeft_toNat b ho, BitVec.ofNat_toNat, BitVec.setWidth_eq]

end

/-- Settles O33: the pass halves the value and the fill lands at bit `N - 1`. -/
theorem shr1HalvesAndFills : Obligations.Shr1HalvesAndFills := by
  rintro s m val ht hf ⟨hN, hadm, hlen, hval⟩
  exact ⟨⟨_, exec_shr1_mli ht hf val, shr1Limbs_length _ _ _,
      limbsVal_shiftLimbs hN (admittedLimbWidth_pos hadm) hlen hval val⟩,
    fun sh p h => decode_row (op := .shr1) h rfl rfl⟩

/-- Settles O34: a positioned fill is a boolean at offset `M`, so the pass is that of `SHR1`. -/
theorem shr1pTakesPositionedFill : Obligations.Shr1pTakesPositionedFill := by
  rintro s m fill ht hf ⟨hN, hadm, hlen, hval⟩
  have hL := admittedLimbWidth_pos hadm
  refine ⟨fun h => ⟨_, exec_shr1p_positioned ht hf h, shr1pLimbs_length _ _, ?_⟩, exec_shr1p_badFill ht hf,
    fun sh p h hfit => decode_row (op := .shr1p) h rfl (decide_eq_true hfit)⟩
  obtain ⟨b, hfill, hdiv⟩ := ofNat_eq_bitWord_shiftLeft (topOffset_lt m.N hL) h
  rw [hfill, hdiv]
  exact limbsVal_shiftLimbs hN hL hlen hval b

/-! ### `EQ` -/

section
variable {L : Nat}

/-- A limb has no excess bit exactly when it is below `2^(M+1)` (R128). -/
theorem and_not_topMask_eq_zero_iff {N : Nat} (hL : 1 ≤ L) (v : Limb L) :
    v &&& ~~~(topMask N L) = 0#L ↔ v.toNat < 2 ^ (topOffset N L + 1) := by
  constructor
  · intro h
    refine Nat.lt_pow_two_of_testBit _ fun i hi => ?_
    rw [BitVec.testBit_toNat, ← Bool.not_eq_true]
    intro hset
    have hbit : (v &&& ~~~(topMask N L)).getLsbD i = true := by
      rw [BitVec.getLsbD_and, BitVec.getLsbD_not, topMask_getLsbD hL, hset,
        decide_eq_true (BitVec.lt_of_getLsbD hset), decide_eq_false (by omega)]
      rfl
    rw [h] at hbit
    simp at hbit
  · intro h
    refine BitVec.eq_of_getLsbD_eq fun i hi => ?_
    by_cases hM : i ≤ topOffset N L
    · simp [topMask_getLsbD hL, hM]
    · have := Nat.testBit_lt_two_pow (h.trans_le (Nat.pow_le_pow_right (by decide) (Nat.lt_of_not_le hM)))
      rw [BitVec.testBit_toNat] at this
      simp [this]

theorem limbsVal_map_ofNat {w : List Nat} (h : ∀ x ∈ w, x < 2 ^ L) :
    limbsVal (w.map (BitVec.ofNat L)) = numsVal L w := by
  induction w with
  | nil => rfl
  | cons x w ih =>
    obtain ⟨hx, hw⟩ := List.forall_mem_cons.1 h
    rw [List.map_cons, limbsVal_cons, ih hw, BitVec.toNat_ofNat, Nat.mod_eq_of_lt hx]
    rfl

theorem limbAt_map_ofNat_toNat {w : List Nat} (h : ∀ x ∈ w, x < 2 ^ L) (j : Nat) :
    (limbAt (w.map (BitVec.ofNat L)) j).toNat = w.getD j 0 := by
  have hlt : w.getD j 0 < 2 ^ L := by
    by_cases hj : j < w.length
    · rw [List.getD_eq_getElem _ _ hj]
      exact h _ (List.getElem_mem hj)
    · rw [List.getD_eq_default _ _ (Nat.le_of_not_lt hj)]
      exact Nat.two_pow_pos L
  rw [limbAt, List.getD_map, BitVec.toNat_ofNat, Nat.mod_eq_of_lt hlt]

/-- `K` limbs of `L` bits are a comparand exactly when the top limb has no excess bit (R128). -/
theorem comparand_eq {N : Nat} {w : List Nat} (hL : 1 ≤ L) (hlen : w.length = limbCount N L)
    (hfit : ∀ x ∈ w, x < 2 ^ L) :
    comparand N L w =
      if w.getD (limbCount N L - 1) 0 < 2 ^ (topOffset N L + 1) then some (w.map (BitVec.ofNat L)) else none := by
  simp only [comparand, hlen, allFit_iff.2 hfit, true_and, and_not_topMask_eq_zero_iff hL,
    limbAt_map_ofNat_toNat hfit]

/-- Limb arrays are equal exactly when their values are (R128). -/
theorem equalLimbs_map_ofNat {V : List (Limb L)} {w : List Nat} (hlen : V.length = w.length)
    (hfit : ∀ x ∈ w, x < 2 ^ L) :
    equalLimbs V (w.map (BitVec.ofNat L)) = decide (limbsVal V = numsVal L w) := by
  rw [equalLimbs, decide_eq_decide, ← limbsVal_map_ofNat hfit]
  exact ⟨congrArg limbsVal, limbsVal_inj (by rw [hlen, List.length_map])⟩

end

/-- Settles O37: a comparand without an excess bit is compared limb by limb, which compares the values. -/
theorem equalComparesValues : Obligations.EqualComparesValues := by
  rintro s m w ht hf ⟨-, hadm, hlen, -⟩ hw hfit
  have hcomp := comparand_eq (admittedLimbWidth_pos hadm) hw hfit
  refine ⟨fun h => ?_, fun h => ?_, fun sh p h hl hx =>
    decode_row (op := .equal) h rfl (by simpa [instrOf, Instr.wf] using ⟨hl, hx⟩)⟩
  · rw [exec_equal_comparand ht hf (hcomp.trans (if_pos h)), equalLimbs_map_ofNat (hlen.trans hw.symm) hfit]
  · exact exec_equal_badOperand ht hf (hcomp.trans (if_neg (Nat.not_lt.2 h)))

end Sys2Proof.Machine
end

section
/-! PROOFS. The Tap Table of 42_tap_table.md: the legal widths with their one rejection (R150, R152), the shape check
as a predicate on tap sets (R151), and the statements of that family settled here. -/

namespace Sys2Proof.Machine

/-! ### The shape check -/

/-- The check of neighbours orders all pairs, because `>` is transitive (R151). -/
@[simp] theorem strictlyDescending_iff (T : List Nat) : strictlyDescending T = true ↔ T.Pairwise (· > ·) := by
  rw [← List.isChain_iff_pairwise]
  fun_induction strictlyDescending T with
  | case1 => simp
  | case2 a => simp
  | case3 a b rest ih => simp [ih]

/-- The shape check of R156, clause by clause: it bounds the entries from below only. -/
theorem wellFormedTaps_iff {N : Nat} {T : List Nat} :
    wellFormedTaps N T = true ↔
      (T.length = 2 ∨ T.length = 4) ∧ T.head? = some N ∧ T.Pairwise (· > ·) ∧ ∀ t ∈ T, 0 < t := by
  simp [wellFormedTaps, and_assoc, Nat.succ_le_iff]

/-- The head of a descending list bounds every entry, which is the upper bound of R151. -/
theorem le_head_of_descending {N : Nat} {T : List Nat} (hdesc : T.Pairwise (· > ·)) (hhead : T.head? = some N) :
    ∀ t ∈ T, t ≤ N := by
  obtain ⟨rest, rfl⟩ := List.head?_eq_some_iff.1 hhead
  exact List.forall_mem_cons.2 ⟨Nat.le_refl N, fun t ht => Nat.le_of_lt (List.rel_of_pairwise_cons hdesc ht)⟩

/-- Settles O9: the check's own clauses are those of R151, but for the upper bound, which the head gives. -/
theorem shapeCheckIsTapSet : Obligations.ShapeCheckIsTapSet := by
  intro N T
  rw [wellFormedTaps_iff]
  constructor
  · rintro ⟨hlen, hhead, hdesc, hpos⟩
    exact ⟨hlen, hdesc, hhead, fun t ht => ⟨hpos t ht, le_head_of_descending hdesc hhead t ht⟩⟩
  · rintro ⟨hlen, hdesc, hhead, hrange⟩
    exact ⟨hlen, hhead, hdesc, fun t ht => (hrange t ht).1⟩

/-! ### The legal widths -/

theorem length_legalWidths : legalWidths.length = 171 := by
  rw [legalWidths, List.length_append, List.length_range']
  rfl

/-- The legal widths as a range and five more (R150). -/
theorem mem_legalWidths_iff_range {N : Nat} :
    N ∈ legalWidths ↔ (3 ≤ N ∧ N ≤ 168) ∨ N ∈ [512, 768, 1024, 2048, 4096] := by
  rw [legalWidths, List.mem_append, List.mem_range'_1]
  exact or_congr_left (and_congr_right fun _ => Nat.lt_succ_iff)

theorem taps_legal (table : List (Nat × List Nat)) {N : Nat} (h : N ∈ legalWidths) :
    taps table N = .ok (tapEntry table N) := if_pos (mem_legalWidths.1 h)

section
variable {N : Nat} (h : N ∉ legalWidths)
include h

theorem isLegalWidth_eq_false : isLegalWidth N = false :=
  Bool.eq_false_iff.2 (mt mem_legalWidths.2 h)

/-- The lookup has no default for an unsupported width (R152). -/
theorem taps_illegal (table : List (Nat × List Nat)) : taps table N = .rejected .widthUnsupported := by
  simp [taps, isLegalWidth_eq_false h]

/-- The width is the first check of a Small engine (R170). -/
theorem elaborate_small_illegal (pf : Platform) (L : Option Nat) (d : Option Bool) :
    elaborate pf ⟨.small, N, L, d⟩ = .rejected .widthUnsupported := by
  simp [elaborate, elaborateSmall, isLegalWidth_eq_false h]

/-- The width is the first check of a Big engine (R190). -/
theorem elaborate_big_illegal (pf : Platform) (L : Option Nat) (d : Option Bool) :
    elaborate pf ⟨.big, N, L, d⟩ = .rejected .widthUnsupported := by
  simp [elaborate, elaborateBig, isLegalWidth_eq_false h]

end

/-- Settles O8: the list by its two parts, and the width check that stands first in the lookup and in the elaboration of
both engines. -/
theorem legalWidthsAndLookup : Obligations.LegalWidthsAndLookup :=
  ⟨length_legalWidths, fun pf _ L d => ⟨mem_legalWidths_iff_range, taps_legal pf.taps, fun h =>
    ⟨taps_illegal h pf.taps, elaborate_small_illegal h pf L d, elaborate_big_illegal h pf L d⟩⟩⟩

end Sys2Proof.Machine
end

section
/-! PROOFS. The Small engine of 43_small_engine.md: the feedback bit and `next_N` as numbers (R173), the word both
strategies leave (R174, R175), and the statements of that family settled here (R176, R177). -/

namespace Sys2Proof.Machine

/-! ### Tap sets and `next_N` -/

/-- A well-formed tap set lies within `1 .. N` (R151). -/
theorem tap_bounds {N : Nat} {T : List Nat} (h : wellFormedTaps N T = true) : ∀ t ∈ T, 1 ≤ t ∧ t ≤ N := by
  obtain ⟨-, hhead, hdesc, hpos⟩ := wellFormedTaps_iff.1 h
  exact fun t ht => ⟨hpos t ht, le_head_of_descending hdesc hhead t ht⟩

/-- A width with a well-formed tap set is not 0, because `N` is itself a tap (R151). -/
theorem width_pos_of_wellFormedTaps {N : Nat} {T : List Nat} (h : wellFormedTaps N T = true) : 1 ≤ N := by
  obtain ⟨-, hhead, -, hpos⟩ := wellFormedTaps_iff.1 h
  exact hpos N (List.mem_of_head? hhead)

/-- The feedback bit is the parity of the bits at the tap positions (R157, R173 step 1). -/
theorem feedback_eq_setPositions (N : Nat) (T : List Nat) (s : Nat) :
    feedback N T s = decide (setPositions s (tapPositions N T) % 2 = 1) := by
  rw [feedback_eq_odd, setPositions, tapPositions, List.countP_map]
  rfl

theorem half_lt_two_pow {N s : Nat} (hN : 1 ≤ N) (hs : s < 2 ^ N) : s / 2 < 2 ^ (N - 1) :=
  Nat.div_lt_of_lt_mul (by rwa [mul_pow_sub_one (by omega)])

/-- `next_N` stays below `2^N` (R173). -/
theorem nextN_lt {N : Nat} (hN : 1 ≤ N) (T : List Nat) {s : Nat} (hs : s < 2 ^ N) : nextN N T s < 2 ^ N := by
  have hhalf := half_lt_two_pow hN hs
  have hpow : 2 ^ N = 2 * 2 ^ (N - 1) := (mul_pow_sub_one (by omega) 2).symm
  unfold nextN
  cases feedback N T s <;> simp only [Bool.toNat_false, Bool.toNat_true] <;> omega

/-- `next_N`, bit by bit: the parity of the tapped bits on top, every other bit from one place up (R173). -/
theorem nextN_testBit_eq_ite {N : Nat} (hN : 1 ≤ N) (T : List Nat) {s : Nat} (hs : s < 2 ^ N) (i : Nat) :
    (nextN N T s).testBit i =
      if i = N - 1 then decide (setPositions s (tapPositions N T) % 2 = 1) else s.testBit (i + 1) := by
  rw [nextN_testBit hN T hs, feedback_eq_setPositions]
  split
  case isTrue htop =>
    have hnone : s.testBit (i + 1) = false := Nat.testBit_lt_two_pow (by rwa [htop, Nat.sub_add_cancel hN])
    rw [hnone, decide_eq_true htop, Bool.false_or, Bool.true_and]
  case isFalse hlow => simp [hlow]

/-! ### One bit of a word -/

/-- A word masked at one bit is that bit moved back to its place. -/
theorem and_one_shiftLeft {W o : Nat} (ho : o < W) (X : BitVec W) :
    X &&& (1#W <<< o) = bitWord W (X.getLsbD o) <<< o := by
  have hone : 1#W = bitWord W true := rfl
  refine BitVec.eq_of_getLsbD_eq fun p _ => ?_
  rw [BitVec.getLsbD_and, hone, bitWord_shiftLeft_getLsbD _ ho, bitWord_shiftLeft_getLsbD _ ho]
  by_cases hp : p = o <;> simp [hp]

theorem bitWord_xor (W : Nat) (a b : Bool) : bitWord W a ^^^ bitWord W b = bitWord W (a ^^ b) := by
  cases a <;> cases b <;> simp [bitWord]

/-! ### The two strategies -/

/-- The register shifted right by one with the feedback bit at `N - 1`: the word both strategies leave. -/
def shiftedWithFeedback (N : Nat) (T : List Nat) {W : Nat} (S : BitVec W) : BitVec W :=
  S >>> 1 ||| bitWord W (feedback N T S.toNat) <<< (N - 1)

section
variable {N W : Nat} {T : List Nat} (S : BitVec W) (hN : 1 ≤ N) (hNW : N ≤ W)
include hN hNW

/-- Its value is `next_N` of the old value: the halved register and the top bit do not overlap (R173). -/
theorem shiftedWithFeedback_toNat (hS : S.toNat < 2 ^ N) : (shiftedWithFeedback N T S).toNat = nextN N T S.toNat := by
  rw [shiftedWithFeedback, nextN, BitVec.toNat_or, BitVec.toNat_ushiftRight,
    bitWord_shiftLeft_toNat _ (by omega : N - 1 < W), Nat.shiftRight_one, Nat.or_comm, Nat.mul_comm, Nat.add_comm,
    Nat.two_pow_add_eq_or_of_lt (half_lt_two_pow hN hS)]

/-- Strategy B: the chain of low bits is the feedback bit as a word (R175). -/
theorem lowBitChain_eq :
    T.foldl (fun b t => b ^^^ ((S >>> (N - t)) &&& 1#W)) 0#W = bitWord W (feedback N T S.toNat) := by
  refine List.foldl_hom (bitWord W) (init := false) fun b t => ?_
  have hlow : (S >>> (N - t)) &&& 1#W = bitWord W (S.toNat.testBit (N - t)) := by
    simpa [BitVec.testBit_toNat] using and_one_shiftLeft (hN.trans hNW) (S >>> (N - t))
  rw [hlow, bitWord_xor]

/-- Strategy B leaves the common word (R175). -/
theorem smallStepB_eq : smallStepB N T S = shiftedWithFeedback N T S := by
  rw [smallStepB, shiftedWithFeedback, lowBitChain_eq S hN hNW]

variable (hT : ∀ t ∈ T, 1 ≤ t ∧ t ≤ N)
include hT

/-- Strategy A: bit `N - 1` of the chain of shifted words is the chain of the bits at `N - t` (R174). -/
theorem shiftChain_getLsbD :
    (T.foldl (fun acc t => acc ^^^ (S <<< (t - 1))) 0#W).getLsbD (N - 1) = feedback N T S.toNat := by
  rw [foldl_xor_getLsbD, BitVec.getLsbD_zero, feedback]
  refine List.foldl_ext _ _ _ fun b t ht => ?_
  obtain ⟨ht1, htN⟩ := hT t ht
  have hpos : N - 1 - (t - 1) = N - t := by omega
  have hin : N - 1 < W := by omega
  have hlow : ¬ N - 1 < t - 1 := by omega
  rw [BitVec.getLsbD_shiftLeft, hpos, decide_eq_true hin, decide_eq_false hlow, Bool.not_false, Bool.true_and,
    Bool.true_and, BitVec.testBit_toNat]

/-- Strategy A leaves the common word: its mask keeps bit `N - 1` of the chain (R174). -/
theorem smallStepA_eq : smallStepA N T S = shiftedWithFeedback N T S := by
  rw [smallStepA, shiftedWithFeedback, and_one_shiftLeft (by omega), shiftChain_getLsbD S hN hNW hT]

/-- The strategy flag does not show in the register (R176). -/
theorem smallStep_eq (d : Bool) : smallStep N T d S = shiftedWithFeedback N T S := by
  cases d
  · exact smallStepB_eq S hN hNW
  · exact smallStepA_eq S hN hNW hT

end

/-- Settles O51: both strategies leave the common word, and its value is `next_N`. -/
theorem smallStrategiesAreNextN : Obligations.SmallStrategiesAreNextN := by
  intro N W T S hT hNW hS
  have hN := width_pos_of_wellFormedTaps hT
  rw [smallStepA_eq S hN hNW (tap_bounds hT), smallStepB_eq S hN hNW]
  exact ⟨rfl, shiftedWithFeedback_toNat S hN hNW hS⟩

/-! ### `NEXT` -/

/-- `SEL` names a width that holds `N` bits (R100). -/
theorem le_of_sel_eq_ok {hasU128 : Bool} {N W : Nat} (h : sel hasU128 N = .ok W) : N ≤ W := by
  obtain ⟨-, -, hNW, -⟩ := selRow_iff_least.1 (sel_eq_ok_iff.1 h).1
  exact hNW

/-- `NEXT` on a Small engine writes what its strategy computes and answers no result (R173, R177). -/
theorem exec_next_small {s : State} {e : SmallEngine} (ht : s.instances[s.target]? = some (.small e)) :
    exec .next s = .next (s.answered
      (.small { e with S := smallStep e.N (tapEntry s.platform.taps e.N) e.directTop e.S }) (.ok .none)) :=
  serve_ready _ ht rfl rfl

/-- Settles O22: the word of either strategy, as a number and bit by bit. -/
theorem nextOnSmallEngine : Obligations.NextOnSmallEngine := by
  refine ⟨?small, fun sh p h => decode_row (op := .next) h rfl rfl⟩
  rintro s e ht htaps ⟨hlegal, hsel, -, hS⟩
  have hNW := le_of_sel_eq_ok hsel
  have hT := tapTableOk_entry htaps hlegal
  have hN := width_pos_of_wellFormedTaps hT
  have hval := shiftedWithFeedback_toNat (T := tapEntry s.platform.taps e.N) e.S hN hNW hS
  refine ⟨_, exec_next_small ht, ?_⟩
  rw [smallStep_eq e.S hN hNW (tap_bounds hT), hval]
  refine ⟨rfl, nextN_lt hN _ hS, fun i _ => ?_⟩
  rw [← BitVec.testBit_toNat, hval, nextN_testBit_eq_ite hN _ hS, BitVec.testBit_toNat]

end Sys2Proof.Machine
end

section
/-! PROOFS. The Big engine of 44_big_engine.md: the limb array both strategies leave (R195, R196) and its value (R194),
the statements of that family settled here, and `NEXT` on an engine of either kind, repeated (R200). -/

namespace Sys2Proof.Machine

/-! ### The two strategies -/

section
variable {N L : Nat} (hL : 1 ≤ L)
include hL

/-- Whichever way it moves, a term of the chain has the bit of its position at offset `M` (R122). -/
theorem chainTerm_getLsbD (V : List (Limb L)) (p : Nat) : (chainTerm N V p).getLsbD (topOffset N L) = bitAt V p := by
  unfold chainTerm bitAt
  split
  case isTrue hle =>
    have hlow : ¬ topOffset N L < topOffset N L - p % L := by omega
    rw [BitVec.getLsbD_shiftLeft, decide_eq_true (topOffset_lt N hL), decide_eq_false hlow, Nat.sub_sub_self hle]
    rfl
  case isFalse hgt => rw [BitVec.getLsbD_ushiftRight, Nat.sub_add_cancel (by omega)]

/-- The masked chain is the parity at offset `M` (R122). -/
theorem parityTopChain_eq (V : List (Limb L)) (ps : List Nat) : parityTopChain N V ps = parityTopAt N V ps := by
  have hbit : (ps.foldl (fun acc p => acc ^^^ chainTerm N V p) 0#L).getLsbD (topOffset N L) = parityAt V ps := by
    simp only [foldl_xor_getLsbD, chainTerm_getLsbD hL, BitVec.getLsbD_zero]
    rfl
  rw [parityTopChain, and_one_shiftLeft (topOffset_lt N hL), hbit, parityTopAt]

/-- Strategy A leaves the array of Strategy B: its fill is the parity where `SHR1` puts it (R196, R197). -/
theorem bigStepA_eq (T : List Nat) (S : List (Limb L)) : bigStepA N T S = bigStepB N T S := by
  rw [bigStepA, parityTopChain_eq hL]
  rfl

/-- The strategy flag does not show in the register (R197). -/
theorem bigStep_eq (T : List Nat) (d : Bool) (S : List (Limb L)) : bigStep N T d S = bigStepB N T S := by
  cases d
  · rfl
  · exact bigStepA_eq hL T S

/-- The parity at the tap positions is the feedback bit of the value (R157, R173 step 1). -/
theorem parityAt_tapPositions (T : List Nat) (S : List (Limb L)) :
    parityAt S (tapPositions N T) = feedback N T (limbsVal S) := by
  rw [parityAt_eq_setPositions hL, feedback_eq_setPositions]

/-- The array both strategies leave has the value `next_N` of the old one (R194, R195). -/
theorem limbsVal_bigStepB (hN : 1 ≤ N) (T : List Nat) {S : List (Limb L)} (hlen : S.length = limbCount N L)
    (hval : limbsVal S < 2 ^ N) : limbsVal (bigStepB N T S) = nextN N T (limbsVal S) := by
  rw [bigStepB, shr1Limbs, limbsVal_shiftLimbs hN hL hlen hval, parityAt_tapPositions hL, nextN]

end

/-! ### `NEXT` -/

/-- `NEXT` on a Big engine writes what its strategy computes and answers no result (R194). -/
theorem exec_next_big {s : State} {e : BigEngine} (ht : s.instances[s.target]? = some (.big e)) :
    exec .next s = .next (s.answered
      (.big { e with S := bigStep e.N (tapEntry s.platform.taps e.N) e.directTop e.S }) (.ok .none)) :=
  serve_ready _ ht rfl rfl

/-- Settles O23: the array of either strategy, as a number and bit by bit. -/
theorem nextOnBigEngine : Obligations.NextOnBigEngine := by
  refine ⟨?big, fun sh p h => decode_row (op := .next) h rfl rfl⟩
  rintro s e ht htaps ⟨hlegal, ⟨hadm, hlen, hS⟩, -⟩
  have hL := admittedLimbWidth_pos hadm
  have hN := width_pos_of_wellFormedTaps (tapTableOk_entry htaps hlegal)
  refine ⟨_, exec_next_big ht, ?_⟩
  rw [bigStep_eq hL, limbsVal_bigStepB hL hN _ hlen hS]
  exact ⟨(shr1Limbs_length _ _ _).trans hlen, rfl, nextN_lt hN _ hS, fun i _ => nextN_testBit_eq_ite hN _ hS i⟩

/-! ### `next_N` never leaves a non-zero value for 0 -/

/-- The feedback bit of 1 is 1: only the tap `N` reads bit 0 (R151, R179). -/
theorem feedback_one {N : Nat} {T : List Nat} (h : wellFormedTaps N T = true) : feedback N T 1 = true := by
  obtain ⟨-, hhead, hdesc, -⟩ := wellFormedTaps_iff.1 h
  obtain ⟨rest, rfl⟩ := List.head?_eq_some_iff.1 hhead
  have hrest : rest.countP (fun t => Nat.testBit 1 (N - t)) = 0 := by
    refine List.countP_eq_zero.2 fun t ht => ?_
    have : t < N := List.rel_of_pairwise_cons hdesc ht
    rw [Nat.testBit_one_eq_true_iff_self_eq_zero]
    omega
  rw [feedback_eq_odd, List.countP_cons, hrest, Nat.sub_self]
  rfl

/-- `next_N` leaves 0 only from 0: a value above 1 has a bit that stays, and 1 feeds its bit back (R179). -/
theorem nextN_pos {N : Nat} {T : List Nat} (h : wellFormedTaps N T = true) {s : Nat} (hs : 1 ≤ s) :
    1 ≤ nextN N T s := by
  unfold nextN
  obtain rfl | hs : s = 1 ∨ 2 ≤ s := by omega
  · rw [feedback_one h, Bool.toNat_true, Nat.one_mul]
    exact Nat.le_add_left_of_le Nat.one_le_two_pow
  · exact Nat.le_add_right_of_le (Nat.div_pos hs (by decide))

/-! ### Instances with the same parameters: they differ in their registers alone (R7) -/

theorem sameParams_small {e : SmallEngine} :
    ∀ {b : Instance}, (Instance.small e).sameParams b → ∃ S, b = .small { e with S := S }
  | .small ⟨_, _, _, S⟩, ⟨rfl, rfl, rfl⟩ => ⟨S, rfl⟩
  | .big _, h => h.elim
  | .mli _, h => h.elim

theorem sameParams_big {e : BigEngine} :
    ∀ {b : Instance}, (Instance.big e).sameParams b → ∃ S, b = .big { e with S := S }
  | .small _, h => h.elim
  | .big ⟨_, _, _, S⟩, ⟨rfl, rfl, rfl⟩ => ⟨S, rfl⟩
  | .mli _, h => h.elim

theorem sameParams_mli {m : Mli} :
    ∀ {b : Instance}, (Instance.mli m).sameParams b → ∃ V f, b = .mli { m with V := V, faulted := f }
  | .small _, h => h.elim
  | .big _, h => h.elim
  | .mli ⟨_, _, V, f⟩, ⟨rfl, rfl⟩ => ⟨V, f, rfl⟩

theorem sameParams_refl : ∀ a : Instance, a.sameParams a
  | .small _ => ⟨rfl, rfl, rfl⟩
  | .big _ => ⟨rfl, rfl, rfl⟩
  | .mli _ => ⟨rfl, rfl⟩

section
variable {a b c : Instance} (h : a.sameParams b)
include h

theorem sameParams_width : b.width = a.width := by
  cases a with
  | small e => obtain ⟨S, rfl⟩ := sameParams_small h; rfl
  | big e => obtain ⟨S, rfl⟩ := sameParams_big h; rfl
  | mli m => obtain ⟨V, f, rfl⟩ := sameParams_mli h; rfl

theorem sameParams_isEngine : b.isEngine = a.isEngine := by
  cases a with
  | small e => obtain ⟨S, rfl⟩ := sameParams_small h; rfl
  | big e => obtain ⟨S, rfl⟩ := sameParams_big h; rfl
  | mli m => obtain ⟨V, f, rfl⟩ := sameParams_mli h; rfl

theorem sameParams_trans (hbc : b.sameParams c) : a.sameParams c := by
  cases a with
  | small e =>
    obtain ⟨S, rfl⟩ := sameParams_small h
    obtain ⟨S', rfl⟩ := sameParams_small hbc
    exact ⟨rfl, rfl, rfl⟩
  | big e =>
    obtain ⟨S, rfl⟩ := sameParams_big h
    obtain ⟨S', rfl⟩ := sameParams_big hbc
    exact ⟨rfl, rfl, rfl⟩
  | mli m =>
    obtain ⟨V, f, rfl⟩ := sameParams_mli h
    obtain ⟨V', f', rfl⟩ := sameParams_mli hbc
    exact ⟨rfl, rfl⟩

end

/-! ### `NEXT` on an engine of either kind, repeated -/

/-- `NEXT` on a well-formed engine of either kind completes, keeps it well formed and leaves `next_N` of its value
(R173, R194). -/
theorem exec_next_engine {s : State} {inst : Instance} (ht : s.instances[s.target]? = some inst)
    (heng : inst.isEngine = true) (hwf : inst.wf s.platform) :
    ∃ inst', exec .next s = .next (s.answered inst' (.ok .none)) ∧ inst.sameParams inst' ∧ inst'.wf s.platform ∧
      inst'.value = nextN inst.width (tapEntry s.platform.taps inst.width) inst.value := by
  cases inst with
  | small e =>
    obtain ⟨htaps, hwf⟩ := hwf
    obtain ⟨S', hexec, hval, hlt, -⟩ := nextOnSmallEngine.1 s e ht htaps hwf
    obtain ⟨hlegal, hsel, hpos, -⟩ := hwf
    have hpos' : 1 ≤ S'.toNat := hval ▸ nextN_pos (tapTableOk_entry htaps hlegal) hpos
    exact ⟨_, hexec, ⟨rfl, rfl, rfl⟩, ⟨htaps, hlegal, hsel, hpos', hlt⟩, hval⟩
  | big e =>
    obtain ⟨htaps, hwf⟩ := hwf
    obtain ⟨S', hexec, hlen, hval, hlt, -⟩ := nextOnBigEngine.1 s e ht htaps hwf
    obtain ⟨hlegal, ⟨hadm, -, -⟩, hpos⟩ := hwf
    have hpos' : 1 ≤ limbsVal S' := hval ▸ nextN_pos (tapTableOk_entry htaps hlegal) hpos
    exact ⟨_, hexec, ⟨rfl, rfl, rfl⟩, ⟨htaps, hlegal, ⟨hadm, hlen, hlt⟩, hpos'⟩, hval⟩
  | mli m => cases heng

/-- `k` requests `NEXT` on a well-formed engine complete and leave `s_k` of its value (R178, R199). -/
theorem execTimes_next_engine (k : Nat) {s : State} {inst : Instance} (ht : s.instances[s.target]? = some inst)
    (heng : inst.isEngine = true) (hwf : inst.wf s.platform) :
    ∃ t inst', execTimes .next k s = .next t ∧ t.target = s.target ∧ t.instances[s.target]? = some inst' ∧
      inst.sameParams inst' ∧ inst'.wf s.platform ∧
      inst'.value = iterNextN inst.width (tapEntry s.platform.taps inst.width) k inst.value := by
  induction k generalizing s inst with
  | zero => exact ⟨s, inst, rfl, rfl, ht, sameParams_refl inst, hwf, rfl⟩
  | succ k ih =>
    obtain ⟨mid, hexec, hsame, hmid, hval⟩ := exec_next_engine ht heng hwf
    have htmid : (s.answered mid (.ok .none)).instances[s.target]? = some mid :=
      List.getElem?_set_self (List.getElem?_eq_some_iff.1 ht).1
    obtain ⟨t, inst', hrun, htarget, hinst, hsame', hwf', hval'⟩ :=
      ih htmid ((sameParams_isEngine hsame).trans heng) hmid
    rw [sameParams_width hsame, hval] at hval'
    refine ⟨t, inst', ?_, htarget, hinst, sameParams_trans hsame hsame', hwf', hval'⟩
    rw [execTimes, hexec]
    exact hrun

/-- Settles O53: each engine holds `s_k` of its start value, and both start at 1; a value of at most 64 bits is what
`TO_U64` answers. -/
theorem smallAndBigAgreeAtEveryStep : Obligations.SmallAndBigAgreeAtEveryStep := by
  intro s s' e e' k hpf htaps hwf hwf' hN hone hone' ht ht'
  obtain ⟨t, inst, hrun, -, hinst, hsame, -, hval⟩ := execTimes_next_engine k ht rfl ⟨htaps, hwf⟩
  obtain ⟨t', inst', hrun', htarget, hinst', hsame', hwf'', hval'⟩ :=
    execTimes_next_engine k ht' rfl ⟨hpf ▸ htaps, hwf'⟩
  obtain ⟨S, rfl⟩ := sameParams_small hsame
  obtain ⟨S', rfl⟩ := sameParams_big hsame'
  have hS : S.toNat = iterNextN e.N (tapEntry s.platform.taps e.N) k 1 := hone ▸ hval
  have hS' : limbsVal S' = iterNextN e.N (tapEntry s.platform.taps e.N) k 1 := by
    rw [hpf, hN, ← hone']
    exact hval'
  obtain ⟨-, -, ⟨-, -, hlt⟩, -⟩ := hwf''
  refine ⟨t, t', S, S', hrun, hrun', hinst, hinst', hS.trans hS'.symm, hS, fun h64 => ?_⟩
  refine ⟨toU64Limbs S', _, exec_toU64_big (htarget ▸ hinst') (hN ▸ h64), ?_, ?_⟩
  · rw [toU64Limbs_toNat (lt_two_pow_64 hlt (hN ▸ h64)), hS, hS']
  · rw [State.answered_outputs, htarget]

end Sys2Proof.Machine
end

section
/-! PROOFS. The fault and the stuck rule of 60_exceptions.md: what a step can do to each of the instances, and
the statements of that family settled here (R216, R217, R222). -/

namespace Sys2Proof.Machine

/-! ### Taking the fault -/

/-- Settles O38: each of the four requests fails the index check, and the list's first position out of range is the one
reported. -/
theorem indexFaultIsTaken : Obligations.IndexFaultIsTaken := by
  refine ⟨fun s m ht hf => ⟨fun idx hidx i hi => ?oneIndex, fun pre p post hpre hp i hi => ?positionList⟩,
    fun _ => rfl, rfl⟩
  case oneIndex =>
    simp only [List.mem_cons, List.not_mem_nil, or_false] at hi
    obtain rfl | rfl | rfl := hi
    · exact exec_bit_outOfRange ht hf hidx
    · exact exec_setBit_outOfRange ht hf hidx
    · exact exec_setBit_outOfRange ht hf hidx
  case positionList =>
    have hfirst := firstOutOfRange_append (post := post) hpre hp
    simp only [List.mem_cons, List.not_mem_nil, or_false] at hi
    obtain rfl | rfl := hi
    · exact exec_parity_outOfRange ht hf hfirst
    · exact exec_parityTop_outOfRange ht hf hfirst

/-! ### What a step does to each of the instances -/

/-- Of the instances each stays as it is through a step, unless the move was its reset event, or it was not stuck and
its request ran (R58, R221, R240). -/
theorem step_next_instance {s t : State} {k : Nat} {inst : Instance} (h : step s = .next t)
    (hk : s.instances[k]? = some inst) :
    t.instances[k]? = some inst ∨
    (∃ rest, s.pending = .reset k :: rest ∧ t.instances[k]? = some inst.resetState) ∨
    (∃ ports rest i, s.pending = .request k ports :: rest ∧ inst.stuck = false ∧
      decode inst.shape ports = .instr i ∧ exec i { s with pending := rest, target := k } = .next t) := by
  have hlt : k < s.instances.length := (List.getElem?_eq_some_iff.1 hk).1
  obtain ⟨-, rfl⟩ | ⟨-, -, -, -, -, rfl⟩ | ⟨-, -, -, -, -, rfl⟩ | ⟨j, ports, rest, a, i, hp, hj, hs, hd, hx⟩ |
    ⟨-, -, -, -, -, -, rfl⟩ | ⟨j, rest, a, hp, hj, rfl⟩ := step_next h
  · exact .inl hk
  · exact .inl ((List.getElem?_append_left hlt).trans hk)
  · exact .inl hk
  · obtain rfl | hne := eq_or_ne k j
    · obtain rfl : a = inst := Option.some.inj (hj.symm.trans hk)
      exact .inr (.inr ⟨ports, rest, i, hp, hs, hd, hx⟩)
    · obtain ⟨-, -, -, -, -, hother⟩ := exec_next_frame hx
      exact .inl ((hother k hne).trans hk)
  · exact .inl hk
  · obtain rfl | hne := eq_or_ne k j
    · obtain rfl : a = inst := Option.some.inj (hj.symm.trans hk)
      exact .inr (.inl ⟨rest, hp, List.getElem?_set_self hlt⟩)
    · exact .inl ((List.getElem?_set_ne hne.symm).trans hk)

/-- Settles O41: a faulted MLI is stuck, so no request runs at it, and only its reset event is left to change it. -/
theorem onlyResetClearsFaulted : Obligations.OnlyResetClearsFaulted := by
  intro s t k m hstep hk hfaulted
  obtain hsame | ⟨rest, hp, hreset⟩ | ⟨-, -, -, -, hfree, -⟩ := step_next_instance hstep hk
  · exact .inl hsame
  · exact .inr ⟨⟨rest, hp⟩, hreset⟩
  · rw [stuck_mli, hfaulted] at hfree
    cases hfree

end Sys2Proof.Machine
end

section
/-! PROOFS. The reset values of 70_reset_and_hazards.md: the limb arrays `0` and `1`, limb by limb and as numbers, and
the statement of that family settled here (R241). -/

namespace Sys2Proof.Machine

/-! ### The reset arrays -/

@[simp] theorem limbAt_zeroLimbs (N L j : Nat) : limbAt (zeroLimbs N L) j = 0#L := by
  simp [limbAt, zeroLimbs]

section
variable {N L : Nat}

/-- A limb of the reset array past limb 0 is zero (R241). -/
theorem limbAt_oneLimbs_pos {j : Nat} (hj : 1 ≤ j) : limbAt (oneLimbs N L) j = 0#L := by
  rw [oneLimbs, limbAt_set_ne (Nat.ne_of_gt hj), limbAt_zeroLimbs]

variable (hN : 1 ≤ N) (hL : 1 ≤ L)
include hN hL

/-- There is a limb 0, and it is 1 (R241). -/
theorem limbAt_oneLimbs_zero : limbAt (oneLimbs N L) 0 = 1#L := by
  obtain ⟨hK, -, -⟩ := limbCount_bounds hN hL
  exact limbAt_set_self (by rwa [zeroLimbs_length]) _

/-- Limb 0 is 1 and the limbs above it are worth nothing (R241). -/
theorem limbsVal_oneLimbs : limbsVal (oneLimbs N L) = 1 := by
  obtain ⟨hK, -, -⟩ := limbCount_bounds hN hL
  obtain ⟨k, hk⟩ := Nat.exists_eq_add_of_le' hK
  rw [oneLimbs, zeroLimbs, hk, List.replicate_succ, List.set_cons_zero, limbsVal_cons, limbsVal_replicate_zero,
    Nat.mul_zero, Nat.add_zero, BitVec.toNat_one hL]

end

/-- The reset event leaves the parameters as they are (R240). -/
theorem sameParams_resetState : ∀ inst : Instance, inst.sameParams inst.resetState
  | .small _ => ⟨rfl, rfl, rfl⟩
  | .big _ => ⟨rfl, rfl, rfl⟩
  | .mli _ => ⟨rfl, rfl⟩

/-- Settles O1: well-formedness gives a register at least one bit wide and an array of at least one limb, so that the
reset value 1 fits. -/
theorem resetValuesOfEveryInstance : Obligations.ResetValuesOfEveryInstance := by
  intro pf inst hwf
  refine ⟨sameParams_resetState inst, ?_⟩
  cases inst with
  | small e =>
    obtain ⟨-, hlegal, hsel, -⟩ := hwf
    have hN := three_le_of_legal hlegal
    have hNW := le_of_sel_eq_ok hsel
    have hW : 1 ≤ e.W := by omega
    exact BitVec.toNat_one hW
  | big e =>
    obtain ⟨-, hlegal, ⟨hadm, -, -⟩, -⟩ := hwf
    have hN : 1 ≤ e.N := Nat.one_le_of_lt (three_le_of_legal hlegal)
    have hL := admittedLimbWidth_pos hadm
    exact ⟨oneLimbs_length _ _, limbAt_oneLimbs_zero hN hL, fun _ => limbAt_oneLimbs_pos, limbsVal_oneLimbs hN hL⟩
  | mli m => exact ⟨zeroLimbs_length _ _, limbAt_zeroLimbs _ _, limbsVal_zeroLimbs _ _, rfl⟩

end Sys2Proof.Machine
end

section
/-! PROOFS. Encoding requests into ports and back (R73 to R83): what the decoder accepts, the encoder read by the
decoder, the requests a step refuses before any meaning runs (R85, R86), and the statements settled here. -/

namespace Sys2Proof.Machine

/-! ### What the decoder accepts -/

theorem opOfCode_eq_some_iff {c : OpCode} {op : Op} : opOfCode c = some op ↔ c = op.code := by
  cases op <;> revert c <;> decide

@[simp] theorem instrOf_op (op : Op) (p : Ports) : (instrOf op p).op = op := by cases op <;> rfl

/-- An accepted tuple selects the request's row, has no reserved count and operands that fit (R92). -/
theorem decode_eq_instr {sh : Shape} {p : Ports} {i : Instr} (h : decode sh p = .instr i) :
    p.op = i.op.code ∧ reservedCnt i.op p = false ∧ i = instrOf i.op p ∧ i.wf sh = true := by
  unfold decode at h
  cases hrow : opOfCode p.op with
  | none => simp [hrow] at h
  | some op =>
    simp only [hrow] at h
    split at h
    · cases h
    · rename_i hcnt
      split at h
      · rename_i hwf
        cases h
        rw [instrOf_op]
        exact ⟨opOfCode_eq_some_iff.1 hrow, by simpa using hcnt, rfl, hwf⟩
      · cases h

theorem reservedCnt_eq_false_iff {op : Op} {p : Ports} :
    reservedCnt op p = false ↔ (op.format = .fp → p.cnt.toNat ≤ 4) := by
  rw [← Bool.not_eq_true, reservedCnt_iff, not_and, Nat.not_lt]

/-! ### The encoder -/

@[simp] theorem encode_op (sh : Shape) (i : Instr) : (encode sh i).op = i.op.code := by cases i <;> rfl

/-- A list of at most four positions is read back from its ports (R78). -/
theorem positions_withPositions (p : Ports) {pos : List Nat} (h : pos.length ≤ 4) :
    (withPositions p pos).positions = pos := by
  match pos, h with
  | [], _ | [_], _ | [_, _], _ | [_, _, _], _ | [_, _, _, _], _ => rfl

theorem withPositions_cnt_toNat (p : Ports) {pos : List Nat} (h : pos.length ≤ 4) :
    (withPositions p pos).cnt.toNat = pos.length := by
  rw [withPositions, BitVec.toNat_ofNat, Nat.mod_eq_of_lt (by omega)]

/-- A request that fits its ports lists at most four positions in the format that has them (R78). -/
theorem wf_parity_length {sh : Shape} {pos : List Nat} (h : (Instr.parity pos).wf sh = true) : pos.length ≤ 4 :=
  of_decide_eq_true (Bool.and_eq_true_iff.1 h).1

section
variable {sh : Shape} {i : Instr} (h : i.wf sh = true)
include h

/-- The row of a request reads the request from the ports the encoder writes. -/
theorem instrOf_encode : instrOf i.op (encode sh i) = i := by
  cases i with
  | parity pos => exact congrArg Instr.parity (positions_withPositions _ (wf_parity_length h))
  | parityTop pos => exact congrArg Instr.parityTop (positions_withPositions _ (wf_parity_length h))
  | _ => rfl

/-- The encoder writes no reserved count. -/
theorem reservedCnt_encode : reservedCnt i.op (encode sh i) = false := by
  cases i with
  | parity pos | parityTop pos =>
    have hpos : pos.length ≤ 4 := wf_parity_length h
    exact reservedCnt_eq_false_iff.2 fun _ => (withPositions_cnt_toNat _ hpos).trans_le hpos
  | _ => rfl

end

/-- Settles O15: the encoder selects the request's row, writes no reserved count, and the row reads the request back. -/
theorem decodeOfEncodeIsIdentity : Obligations.DecodeOfEncodeIsIdentity := by
  intro sh i h
  have hread := instrOf_encode h
  rw [decode_row (encode_op sh i) (reservedCnt_encode h) (hread.symm ▸ h), hread]

/-! ### The significant ports of an accepted tuple -/

section
variable (sh : Shape) (p : Ports) {op : Op}

theorem encode_instrOf_idx (h : op.format = .fi ∨ op.format = .fiv) : (encode sh (instrOf op p)).idx = p.idx := by
  cases op with
  | bit | setBit => rfl
  | _ => simp [Op.format] at h

theorem encode_instrOf_val (h : op.format = .fiv ∨ op.format = .fv) : (encode sh (instrOf op p)).val = p.val := by
  cases op with
  | setBit | shr1 => rfl
  | _ => simp [Op.format] at h

theorem encode_instrOf_fill (h : op.format = .fl) : (encode sh (instrOf op p)).fill = p.fill := by
  cases op with
  | shr1p => rfl
  | _ => cases h

theorem encode_instrOf_w (h : op.format = .fw) : (encode sh (instrOf op p)).w = p.w := by
  cases op with
  | equal => rfl
  | _ => cases h

/-- The ports that carry the position list of a tuple (R78). -/
theorem encode_instrOf_parity (h : op.format = .fp) :
    encode sh (instrOf op p) = withPositions (zeroPorts sh op.code) p.positions := by
  cases op with
  | parity | parityTop => rfl
  | _ => cases h

end

theorem positions_length {p : Ports} (h : p.cnt.toNat ≤ 4) : p.positions.length = p.cnt.toNat := by
  simpa [Ports.positions] using h

/-- Settles O16: an accepted tuple spells `instrOf` of its row, and the encoder writes back the ports `instrOf` read. -/
theorem acceptedPortsAreTheEncoders : Obligations.AcceptedPortsAreTheEncoders := by
  intro sh p i h
  obtain ⟨hop, hcnt, hi, hwf⟩ := decode_eq_instr h
  generalize i.op = op at hop hcnt hi
  subst hi
  rw [encode_op, instrOf_op]
  refine ⟨hwf, hop.symm, encode_instrOf_idx sh p, encode_instrOf_val sh p, fun hfp => ?_, encode_instrOf_fill sh p,
    encode_instrOf_w sh p⟩
  rw [encode_instrOf_parity sh p hfp]
  have hpos := positions_length_le p
  refine ⟨BitVec.eq_of_toNat_eq ?_, positions_withPositions _ hpos⟩
  rw [withPositions_cnt_toNat _ hpos, positions_length (reservedCnt_eq_false_iff.1 hcnt hfp)]

/-- Settles O14: each tuple is its own row's, with operands that fit. -/
theorem writtenRequestsDecode : Obligations.WrittenRequestsDecode := by
  unfold Obligations.WrittenRequestsDecode
  decide

/-! ### The step of a presented request -/

/-- Settles O18: what the meaning answers is settled, and where nothing is stuck that is no fault and no refusal
of the model's own. -/
theorem stepRunsDecodedRequest : Obligations.StepRunsDecodedRequest := by
  intro s k p rest inst i hp ht hs hd
  have hanswers : Answers (exec i { s with pending := rest, target := k }) := exec_answers i ht hs
  rw [step_request hp ht hs hd]
  refine ⟨fun t h => ?_, fun r h => ?_, fun f h => ?_⟩
  · rw [h, settle_next]
  · rw [h] at hanswers ⊢
    obtain ⟨_, hne⟩ | ⟨_, hr, hcode⟩ := hanswers
    · cases hne
    · cases hr
      exact settle_refused hcode
  · rw [h] at hanswers
    obtain ⟨_, hne⟩ | ⟨_, hr, -⟩ := hanswers
    · cases hne
    · cases hr

section
variable {s : State} {inst : Instance} (ht : s.instances[s.target]? = some inst) (hs : inst.stuck = false)
include ht hs

/-- A rejected tuple runs no meaning (R220). -/
theorem attend_reject {p : Ports} {e : DecodeError} (hd : decode inst.shape p = .reject e) :
    attend p s = refuseTuple inst e := by simp [attend, ht, hs, hd]

/-- A meaning that is not offered is refused (R85). -/
theorem exec_notOffered {i : Instr} (ho : inst.offers i.op = false) : exec i s = .refused .notOffered := by
  cases i <;> exact serve_notOffered _ ht hs ho

/-- A row that is not offered is refused as such, whatever the other ports hold (R84, R220). -/
theorem attend_notOffered {p : Ports} {op : Op} (hop : p.op = op.code) (ho : inst.offers op = false) :
    attend p s = .refused .notOffered := by
  cases hd : decode inst.shape p with
  | instr i =>
    obtain ⟨hcode, -⟩ := decode_eq_instr hd
    obtain rfl : op = i.op := Option.some.inj <| by rw [← opOfCode_code op, ← hop, hcode, opOfCode_code]
    rw [attend_instr ht hs hd, exec_notOffered ht hs ho]
  | reject e =>
    rw [attend_reject ht hs hd]
    simp only [decode, hop, opOfCode_code] at hd
    split at hd
    · cases hd
      simp [refuseTuple, ho]
    · split at hd <;> cases hd
      simp [refuseTuple, ho]

end

/-- A request refused for a reason of the spec is used up and marks the run it belongs to (log 10). -/
theorem step_request_refused {s : State} {k : Nat} {p : Ports} {rest : List Move} {r : Refusal}
    (hp : s.pending = .request k p :: rest) (hr : attend p { s with pending := rest, target := k } = .refused r)
    (hcode : r.code ≠ 0) :
    step s = .next (({ s with pending := rest, target := k } : State).marked (.refused k r)) := by
  rw [step_cons hp]
  simp only [clientMove, presentRequest, hr]
  exact settle_refused hcode

/-- A count of 5 to 7 in a row of format FP is rejected by name (R86). -/
theorem decode_badCnt {sh : Shape} {p : Ports} {op : Op} (hop : p.op = op.code) (hfp : op.format = .fp)
    (hcnt : 5 ≤ p.cnt.toNat) : decode sh p = .reject (.badCnt op) := by
  have hres : reservedCnt op p = true := reservedCnt_iff.2 ⟨hfp, hcnt⟩
  simp [decode, hop, hres]

/-- Settles O19: the decoder rejects both by name, and an MLI offers the parity requests. -/
theorem reservedEncodingsAreRefused : Obligations.ReservedEncodingsAreRefused := by
  intro s k p rest inst hp ht hs
  refine ⟨fun h => ?_, fun hop heng hcnt => ?_⟩
  · exact step_request_refused hp (attend_reject ht hs (decode_reservedOp h)) (by decide)
  · cases inst with
    | small e => cases heng
    | big e => cases heng
    | mli m =>
      obtain hop | hop := hop
      · exact step_request_refused hp (attend_reject ht hs (decode_badCnt (op := .parity) hop rfl hcnt)) (by decide)
      · exact step_request_refused hp (attend_reject ht hs (decode_badCnt (op := .parityTop) hop rfl hcnt)) (by decide)

/-! ### What is not offered (R84) -/

theorem offers_small_eq_false (e : SmallEngine) {op : Op} (h : 2 ≤ op.code.toNat) :
    (Instance.small e).offers op = false := by
  cases op with
  | state | next => exact absurd h (by decide)
  | _ => rfl

theorem offers_big_eq_false (e : BigEngine) {op : Op}
    (h : 3 ≤ op.code.toNat ∨ (op.code.toNat = 2 ∧ 64 < e.N)) : (Instance.big e).offers op = false := by
  cases op with
  | state | next => exact absurd h (by simp [Op.code])
  | toU64 => exact decide_eq_false (by simpa [Op.code] using h)
  | _ => rfl

theorem offers_mli_eq_false (m : Mli) {op : Op} (h : op.code.toNat < 2) : (Instance.mli m).offers op = false := by
  cases op with
  | state | next => rfl
  | _ => exact absurd h (by decide)

/-- Settles O20: the row of the table of R84 says it is not offered, and that is looked at before any other port. -/
theorem notOfferedIsRefusedFirst : Obligations.NotOfferedIsRefusedFirst := by
  intro s k p rest inst hp ht hs hlt hrow
  obtain ⟨op, hop⟩ : ∃ op, opOfCode p.op = some op :=
    Option.ne_none_iff_exists'.1 fun h => Nat.not_lt.2 ((opOfCode_eq_none_iff p.op).1 h) hlt
  have hcode := opOfCode_eq_some_iff.1 hop
  have hoffers : inst.offers op = false := by
    rw [hcode] at hrow
    cases inst with
    | small e => exact offers_small_eq_false e hrow
    | big e => exact offers_big_eq_false e hrow
    | mli m => exact offers_mli_eq_false m hrow
  exact step_request_refused hp (attend_notOffered ht hs hcode hoffers) (by decide)

/-! ### `STATE` -/

/-- Settles O21: both engines offer `STATE`, whose meaning is the answer. -/
theorem stateAnswersTheRegister : Obligations.StateAnswersTheRegister := fun _ =>
  ⟨fun _ ht => serve_ready _ ht rfl rfl, fun _ ht => serve_ready _ ht rfl rfl,
    fun _ _ h => decode_row (op := .state) h rfl rfl⟩

end Sys2Proof.Machine
end

section
/-! PROOFS. Elaboration and the reset event (R110, R170, R190, R240, R245): the checks in their order, what elaboration
makes, the reset states under legal parameters, and the statements settled here. -/

namespace Sys2Proof.Machine

/-! ### The checks of an elaboration in their order -/

section
variable {pf : Platform} {N W : Nat} {L : Option Nat} {d : Option Bool}

section
variable (hN : isLegalWidth N = true)
include hN

theorem elaborate_small_noNativeType (hsel : sel pf.hasU128 N = .rejected .noNativeType) :
    elaborate pf ⟨.small, N, L, d⟩ = .rejected .noNativeType := by
  simp [elaborate, elaborateSmall, hN, hsel]

theorem elaborate_small_tapDefect (hsel : sel pf.hasU128 N = .ok W) (htaps : tapTableOk pf.taps = false) :
    elaborate pf ⟨.small, N, L, d⟩ = .rejected .tapDefect := by
  simp [elaborate, elaborateSmall, hN, hsel, htaps]

theorem elaborate_small_ok (hsel : sel pf.hasU128 N = .ok W) (htaps : tapTableOk pf.taps = true) :
    elaborate pf ⟨.small, N, L, d⟩ = .ok (.small ⟨N, W, d.getD false, 1#W⟩) := by
  simp [elaborate, elaborateSmall, hN, hsel, htaps, Config.defaultDirectTopBit]

theorem elaborate_big_limbWidth (hadm : admittedLimbWidth pf.hasU128 (L.getD 32) = false) :
    elaborate pf ⟨.big, N, L, d⟩ = .rejected .limbWidth := by
  simp [elaborate, elaborateBig, hN, Config.defaultLimbWidth, hadm]

theorem elaborate_big_tapDefect (hadm : admittedLimbWidth pf.hasU128 (L.getD 32) = true)
    (htaps : tapTableOk pf.taps = false) : elaborate pf ⟨.big, N, L, d⟩ = .rejected .tapDefect := by
  simp [elaborate, elaborateBig, hN, Config.defaultLimbWidth, hadm, htaps]

theorem elaborate_big_ok (hadm : admittedLimbWidth pf.hasU128 (L.getD 32) = true)
    (htaps : tapTableOk pf.taps = true) :
    elaborate pf ⟨.big, N, L, d⟩ = .ok (.big ⟨N, L.getD 32, d.getD false, oneLimbs N (L.getD 32)⟩) := by
  simp [elaborate, elaborateBig, hN, Config.defaultLimbWidth, Config.defaultDirectTopBit, hadm, htaps]

end

theorem elaborate_mli_width (hN : N < 1) : elaborate pf ⟨.mli, N, L, d⟩ = .rejected .mliWidth := by
  simp [elaborate, elaborateMli, hN]

section
variable (hN : 1 ≤ N)
include hN

theorem elaborate_mli_limbWidth (hadm : admittedLimbWidth pf.hasU128 (L.getD 32) = false) :
    elaborate pf ⟨.mli, N, L, d⟩ = .rejected .limbWidth := by
  simp [elaborate, elaborateMli, Nat.not_lt.2 hN, Config.defaultLimbWidth, hadm]

theorem elaborate_mli_ok (hadm : admittedLimbWidth pf.hasU128 (L.getD 32) = true) :
    elaborate pf ⟨.mli, N, L, d⟩ = .ok (.mli ⟨N, L.getD 32, zeroLimbs N (L.getD 32), false⟩) := by
  simp [elaborate, elaborateMli, Nat.not_lt.2 hN, Config.defaultLimbWidth, hadm]

end

end

/-- Settles O6: one lemma per outcome of each kind; `SEL` names a width or there is no native type. -/
theorem elaborationChecksInOrder : Obligations.ElaborationChecksInOrder := by
  intro pf N L d
  refine ⟨⟨fun h => ⟨elaborate_small_illegal h pf L d, elaborate_big_illegal h pf L d⟩, fun h => ?_⟩,
    elaborate_mli_width, elaborate_mli_limbWidth, elaborate_mli_ok⟩
  have hN := mem_legalWidths.1 h
  refine ⟨fun hsel => ?_, elaborate_big_limbWidth hN, fun W => elaborate_small_tapDefect hN,
    elaborate_big_tapDefect hN, fun W => elaborate_small_ok hN, elaborate_big_ok hN⟩
  exact elaborate_small_noNativeType hN ((sel_eq_ok_or_noNativeType _ _).resolve_left (not_exists.2 hsel))

/-! ### Legal parameters -/

/-- The part of the invariant that elaboration checks: legal parameters, on a table that passed (R110, R170, R190). -/
def Instance.LegalParams (pf : Platform) : Instance → Prop
  | .small e => tapTableOk pf.taps = true ∧ isLegalWidth e.N = true ∧ sel pf.hasU128 e.N = .ok e.W
  | .big e => tapTableOk pf.taps = true ∧ isLegalWidth e.N = true ∧ admittedLimbWidth pf.hasU128 e.L = true
  | .mli m => 1 ≤ m.N ∧ admittedLimbWidth pf.hasU128 m.L = true

theorem legalParams_of_wf {pf : Platform} {inst : Instance} (h : inst.wf pf) : inst.LegalParams pf := by
  cases inst with
  | small e =>
    obtain ⟨htaps, hlegal, hsel, -⟩ := h
    exact ⟨htaps, hlegal, hsel⟩
  | big e =>
    obtain ⟨htaps, hlegal, ⟨hadm, -⟩, -⟩ := h
    exact ⟨htaps, hlegal, hadm⟩
  | mli m =>
    obtain ⟨hN, hadm, -⟩ := h
    exact ⟨hN, hadm⟩

/-- Elaboration makes a reset state with the width asked for and legal parameters (R241, R245). -/
theorem elaborate_eq_ok {pf : Platform} {p : Params} {inst : Instance} (h : elaborate pf p = .ok inst) :
    ∃ a : Instance, inst = a.resetState ∧ a.width = p.N ∧ a.LegalParams pf := by
  obtain ⟨kind, N, L, d⟩ := p
  cases kind with
  | small =>
    simp only [elaborate, elaborateSmall] at h
    split at h
    · cases h
    · rename_i hN
      split at h
      · cases h
      · rename_i W hsel
        split at h
        · cases h
        · rename_i htaps
          cases h
          exact ⟨_, rfl, rfl, by simpa using htaps, by simpa using hN, hsel⟩
  | big =>
    simp only [elaborate, elaborateBig] at h
    split at h
    · cases h
    · rename_i hN
      split at h
      · cases h
      · rename_i hadm
        split at h
        · cases h
        · rename_i htaps
          cases h
          exact ⟨_, rfl, rfl, by simpa using htaps, by simpa using hN, by simpa using hadm⟩
  | mli =>
    simp only [elaborate, elaborateMli] at h
    split at h
    · cases h
    · rename_i hN
      split at h
      · cases h
      · rename_i hadm
        cases h
        exact ⟨_, rfl, rfl, Nat.le_of_not_lt hN, by simpa using hadm⟩

/-! ### The reset state -/

@[simp] theorem resetState_width (inst : Instance) : inst.resetState.width = inst.width := by cases inst <;> rfl
@[simp] theorem resetState_isEngine (inst : Instance) : inst.resetState.isEngine = inst.isEngine := by
  cases inst <;> rfl
@[simp] theorem resetState_stuck (inst : Instance) : inst.resetState.stuck = false := by cases inst <;> rfl
@[simp] theorem resetState_resetState (inst : Instance) : inst.resetState.resetState = inst.resetState := by
  cases inst <;> rfl

section
variable {pf : Platform} {inst : Instance} (h : inst.LegalParams pf)
include h

/-- The reset register is 1 in an engine and 0 in an MLI (R241). -/
theorem resetState_value : inst.resetState.value = inst.isEngine.toNat := by
  cases inst with
  | small e =>
    obtain ⟨-, hlegal, hsel⟩ := h
    have hN := three_le_of_legal hlegal
    have hNW := le_of_sel_eq_ok hsel
    have hW : 1 ≤ e.W := by omega
    exact BitVec.toNat_one hW
  | big e =>
    obtain ⟨-, hlegal, hadm⟩ := h
    exact limbsVal_oneLimbs (Nat.one_le_of_lt (three_le_of_legal hlegal)) (admittedLimbWidth_pos hadm)
  | mli m => exact limbsVal_zeroLimbs _ _

/-- With legal parameters the reset state meets the invariant (R21, R25, R28). -/
theorem resetState_wf : inst.resetState.wf pf := by
  have hval := resetState_value h
  cases inst with
  | small e =>
    obtain ⟨htaps, hlegal, hsel⟩ := h
    have hN : e.N ≠ 0 := Nat.ne_of_gt (Nat.zero_lt_of_lt (three_le_of_legal hlegal))
    exact ⟨htaps, hlegal, hsel, hval.ge, hval.trans_lt (Nat.one_lt_two_pow hN)⟩
  | big e =>
    obtain ⟨htaps, hlegal, hadm⟩ := h
    have hN : e.N ≠ 0 := Nat.ne_of_gt (Nat.zero_lt_of_lt (three_le_of_legal hlegal))
    exact ⟨htaps, hlegal, ⟨hadm, oneLimbs_length _ _, hval.trans_lt (Nat.one_lt_two_pow hN)⟩, hval.ge⟩
  | mli m =>
    obtain ⟨hN, hadm⟩ := h
    exact ⟨hN, hadm, zeroLimbs_length _ _, hval.trans_lt (Nat.two_pow_pos _)⟩

end

theorem elaborate_wf {pf : Platform} {p : Params} {inst : Instance} (h : elaborate pf p = .ok inst) : inst.wf pf := by
  obtain ⟨a, rfl, -, hlegal⟩ := elaborate_eq_ok h
  exact resetState_wf hlegal

/-- Settles O7: elaboration makes a reset state with legal parameters, and the elaborate move settles both outcomes. -/
theorem elaboratedInstanceIsWellFormed : Obligations.ElaboratedInstanceIsWellFormed := by
  refine ⟨fun pf p inst h => ?made, fun s p rest hp => ⟨fun inst h => ?added, fun r h => ?rejected⟩⟩
  case made =>
    obtain ⟨a, rfl, hwidth, hlegal⟩ := elaborate_eq_ok h
    have hval := resetState_value hlegal
    refine ⟨resetState_wf hlegal, (resetState_width a).trans hwidth, resetState_stuck a, resetState_resetState a,
      fun heng => ?_, fun heng => ?_⟩
    all_goals
      rw [resetState_isEngine] at heng
      rw [hval, heng]
      rfl
  case added =>
    rw [step_cons hp]
    simp [clientMove, elaborateMove, h]
  case rejected =>
    rw [step_cons hp]
    simp [clientMove, elaborateMove, h]

/-! ### The reset event -/

/-- The reset event of a number that is taken is a next state (R240). -/
theorem step_reset {s : State} {k : Nat} {rest : List Move} {inst : Instance} (hp : s.pending = .reset k :: rest)
    (hk : s.instances[k]? = some inst) :
    step s = .next { s with pending := rest, instances := s.instances.set k inst.resetState } := by
  rw [step_cons hp]
  simp [clientMove, resetEvent, hk]

/-- Settles O2: the reset event replaces one entry of the list of instances. -/
theorem resetEventResetsOneInstance : Obligations.ResetEventResetsOneInstance := by
  intro s k rest inst hp hk
  exact ⟨_, step_reset hp hk, List.getElem?_set_self (List.getElem?_eq_some_iff.1 hk).1, sameParams_resetState inst,
    fun j hj => List.getElem?_set_ne hj.symm, List.length_set, rfl, rfl, rfl, rfl, rfl⟩

/-- Settles O49: with no move pending `takeMove` answers the state itself. -/
theorem noMoveChangesNothing : Obligations.NoMoveChangesNothing := by
  intro s hp
  simp [step, takeMove, hp]

/-! ### The machine at reset -/

theorem tapEntry_openTable {N : Nat} (hN : N ∈ legalWidths) : tapEntry openTable N = openTaps N := tapEntry_map hN

theorem tapTableOk_openTable : tapTableOk openTable = true := by
  refine List.all_eq_true.2 fun N hN => ?_
  rw [tapEntry_openTable hN]
  exact openTaps_wellFormed (three_le_of_legal (mem_legalWidths.1 hN))

theorem tapEntry_openTable_three : tapEntry openTable 3 = [3, 2] := tapEntry_openTable (mem_legalWidths.2 rfl)

/-- Settles O11: a row made by `openTaps` has the shape of a tap set whatever the free numbers are. -/
theorem openTablePassesShapeCheck : Obligations.OpenTablePassesShapeCheck :=
  ⟨rfl, tapEntry_openTable_three, tapTableOk_openTable⟩

/-- Settles O4: the checks pass for each of the three, on the table at reset. -/
theorem resetInstancesAreElaborated : Obligations.ResetInstancesAreElaborated :=
  ⟨_, _, _, rfl, elaborate_small_ok rfl rfl tapTableOk_openTable, elaborate_big_ok rfl rfl tapTableOk_openTable,
    elaborate_mli_ok (by decide) rfl⟩

/-- Settles O3: the three instances at reset are elaborated, and elaboration makes well-formed instances. -/
theorem resetMeetsInvariant : Obligations.ResetMeetsInvariant := by
  obtain ⟨i0, i1, i2, hinst, h0, h1, h2⟩ := resetInstancesAreElaborated
  intro inst hmem
  rw [hinst] at hmem
  simp only [List.mem_cons, List.not_mem_nil, or_false] at hmem
  obtain rfl | rfl | rfl := hmem
  · exact elaborate_wf h0
  · exact elaborate_wf h1
  · exact elaborate_wf h2

end Sys2Proof.Machine
end

section
/-! PROOFS. The invariant (R21, R24, R25, R27): every operation of the Multi-Limb Integer leaves a value below `2^N`,
every request keeps well formed what it addresses, and so does every step. -/

namespace Sys2Proof.Machine

/-! ### The operations of the Multi-Limb Integer keep the excess bits zero (R112) -/

section
variable {pf : Platform} {m : Mli} (h : m.wf pf)
include h

theorem setBitAt_wf {i : Nat} (hi : i < m.N) (b : Bool) : ({ m with V := setBitAt m.V i b } : Mli).wf pf := by
  obtain ⟨hN, hadm, hlen, hval⟩ := h
  have hL := admittedLimbWidth_pos hadm
  refine ⟨hN, hadm, (setBitAt_length _ _ _).trans hlen, Nat.lt_pow_two_of_testBit _ fun j hj => ?_⟩
  have hne : j ≠ i := fun hji => Nat.not_lt.2 hj (hji ▸ hi)
  rw [limbsVal_testBit hL, bitAt_setBitAt hL (hlen ▸ div_lt_limbCount hL hi), if_neg hne, ← limbsVal_testBit hL]
  exact Nat.testBit_lt_two_pow (hval.trans_le (Nat.pow_le_pow_right (by decide) hj))

theorem complementLimbs_wf : ({ m with V := complementLimbs m.N m.V } : Mli).wf pf := by
  obtain ⟨hN, hadm, hlen, hval⟩ := h
  refine ⟨hN, hadm, (complementLimbs_length _ _).trans hlen, ?_⟩
  rw [limbsVal_complementLimbs hN (admittedLimbWidth_pos hadm) hlen hval]
  have hpos := Nat.two_pow_pos m.N
  exact (Nat.sub_le _ _).trans_lt (Nat.sub_lt hpos one_pos)

theorem shr1Limbs_wf (b : Bool) : ({ m with V := shr1Limbs m.N m.V b } : Mli).wf pf := by
  obtain ⟨hN, hadm, hlen, hval⟩ := h
  have hL := admittedLimbWidth_pos hadm
  have hv : limbsVal (shr1Limbs m.N m.V b) = limbsVal m.V / 2 + b.toNat * 2 ^ (m.N - 1) :=
    limbsVal_shiftLimbs hN hL hlen hval b
  refine ⟨hN, hadm, (shr1Limbs_length _ _ _).trans hlen, ?_⟩
  have hhalf := half_lt_two_pow hN hval
  have hpow : 2 ^ m.N = 2 * 2 ^ (m.N - 1) := (mul_pow_sub_one (by omega) 2).symm
  rw [hv]
  cases b <;> simp only [Bool.toNat_false, Bool.toNat_true] <;> omega

/-- An admitted fill is a boolean at offset `M`, so `SHR1P` is `SHR1` (R124, R125). -/
theorem shr1pLimbs_wf {fill : Nat} (hfill : fill = 0 ∨ fill = 2 ^ topOffset m.N m.L) :
    ({ m with V := shr1pLimbs m.V (BitVec.ofNat m.L fill) } : Mli).wf pf := by
  have ⟨_, hadm, _, _⟩ := h
  obtain ⟨b, hb, -⟩ := ofNat_eq_bitWord_shiftLeft (topOffset_lt m.N (admittedLimbWidth_pos hadm)) hfill
  rw [hb]
  exact shr1Limbs_wf h b

end

/-! ### Every request keeps well formed what it addresses -/

/-- A request other than `NEXT` keeps the invariant where it is served (R25, R112). -/
theorem served_wf {s : State} {i : Instr} {inst inst' : Instance} {r : Response} (h : Served s i inst inst' r)
    (hnext : i ≠ .next) (hwf : inst.wf s.platform) : inst'.wf s.platform := by
  cases h with
  | nextSmall | nextBig => exact absurd rfl hnext
  | setBit m i b hf hi => exact setBitAt_wf hwf hi b
  | complement m hf => exact complementLimbs_wf hwf
  | shr1 m b hf => exact shr1Limbs_wf hwf b
  | shr1p m f hf hfill => exact shr1pLimbs_wf hwf hfill
  | stateSmall | stateBig | toU64Big | toU64Mli | bit | popcount | parity | parityTop | equal => exact hwf
  | bitFault | setBitFault | parityFault | parityTopFault => exact hwf

/-- `NEXT` is served at an engine (R84). -/
theorem served_next_isEngine {s : State} {inst inst' : Instance} {r : Response} (h : Served s .next inst inst' r) :
    inst.isEngine = true := by
  cases h <;> rfl

/-- A request in a state that meets the invariant puts something well formed in the addressed place. -/
theorem exec_next_wf {i : Instr} {s t : State} (h : exec i s = .next t) (hinv : s.Inv) :
    ∃ inst' r, t = s.answered inst' r ∧ inst'.wf s.platform := by
  obtain ⟨inst, inst', r, ht, hserved, rfl⟩ := exec_next h
  have hwf := hinv inst (List.mem_of_getElem? ht)
  by_cases hi : i = .next
  · subst hi
    obtain ⟨a, hexec, -, ha, -⟩ := exec_next_engine ht (served_next_isEngine hserved) hwf
    rw [hexec] at h
    exact ⟨a, .ok .none, (Host.Outcome.next.inj h).symm, ha⟩
  · exact ⟨inst', r, rfl, served_wf hserved hi hwf⟩

/-! ### Every step keeps the invariant -/

theorem forall_mem_set {α : Type} {P : α → Prop} {l : List α} {k : Nat} {a : α} (hl : ∀ x ∈ l, P x)
    (ha : P a) : ∀ x ∈ l.set k a, P x := fun x hx =>
  (List.mem_or_eq_of_mem_set hx).elim (hl x) fun h => h ▸ ha

/-- Settles O50: a step leaves the instances, adds an elaborated one, or replaces one by what a request or the reset
event made of it, and each of these is well formed. -/
theorem stepKeepsInvariant : Obligations.StepKeepsInvariant := by
  intro s t hinv hstep
  obtain ⟨-, rfl⟩ | ⟨p, rest, inst, -, helab, rfl⟩ | ⟨p, rest, r, -, -, rfl⟩ |
    ⟨k, ports, rest, inst, i, -, -, -, -, hexec⟩ | ⟨k, ports, rest, m, -, -, rfl⟩ |
    ⟨k, rest, inst, -, hk, rfl⟩ := step_next hstep
  · exact hinv
  · intro x hx
    obtain hx | hx := List.mem_append.1 hx
    · exact hinv x hx
    · rw [List.mem_singleton.1 hx]
      exact elaborate_wf helab
  · exact hinv
  · have hinv' : ({ s with pending := rest, target := k } : State).Inv := hinv
    obtain ⟨inst', r, rfl, hwf⟩ := exec_next_wf hexec hinv'
    exact forall_mem_set hinv hwf
  · exact hinv
  · exact forall_mem_set hinv (resetState_wf (legalParams_of_wf (hinv inst (List.mem_of_getElem? hk))))

end Sys2Proof.Machine
end

section
/-! PROOFS. The laws of the Multi-Limb Integer between requests (R9, R118, R122, R125, R126), and the statements settled
here. -/

namespace Sys2Proof.Machine

/-! ### The constants of a limb array (R9) -/

theorem topMask_toNat (N : Nat) {L : Nat} (hL : 1 ≤ L) : (topMask N L).toNat = 2 ^ (topOffset N L + 1) - 1 := by
  have hle : 2 ^ (topOffset N L + 1) ≤ 2 ^ L := Nat.pow_le_pow_right (by decide) (topOffset_lt N hL)
  have hpos := Nat.two_pow_pos (topOffset N L + 1)
  rw [topMask, BitVec.toNat_ofNat, Nat.mod_eq_of_lt (by omega)]

/-- What `N` leaves of the top limb is what lies above offset `M` (R9). -/
theorem excessBits_eq {N L : Nat} (hN : 1 ≤ N) (hL : 1 ≤ L) : excessBits N L = L - 1 - topOffset N L := by
  obtain ⟨hK, -, -⟩ := limbCount_bounds hN hL
  obtain ⟨-, -, htop⟩ := topBit_position hN hL
  have hsplit : limbCount N L * L = (limbCount N L - 1) * L + L := by
    rw [← Nat.succ_mul, Nat.succ_eq_add_one, Nat.sub_add_cancel hK]
  unfold excessBits
  omega

/-- Settles O12: the bounds on `K` and the place of bit `N - 1` give every constant but `IW`, which is a logarithm. -/
theorem derivedConstantsOfLimbs : Obligations.DerivedConstantsOfLimbs := by
  intro N L hN hL
  obtain ⟨hK, hle, hlt⟩ := limbCount_bounds hN hL
  obtain ⟨hdiv, hM, -⟩ := topBit_position hN hL
  have hE := excessBits_eq hN hL
  exact ⟨hK, hle, hlt, hdiv, hM, by omega, hE, topMask_toNat N hL, Nat.log2_self_le (Nat.ne_of_gt hN),
    Nat.lt_log2_self⟩

/-! ### After a request -/

/-- What a request leaves at a number is what the next request to the same number finds. -/
theorem answered_addressed {s : State} {a : Instance} (ht : s.instances[s.target]? = some a) (inst : Instance)
    (r : Response) : (s.answered inst r).instances[(s.answered inst r).target]? = some inst :=
  List.getElem?_set_self (List.getElem?_eq_some_iff.1 ht).1

/-! ### `POPCOUNT` after `COMPLEMENT` -/

theorem countP_not (p : Nat → Bool) (l : List Nat) : l.countP (fun i => !p i) = l.length - l.countP p := by
  rw [List.length_eq_countP_add_countP p, Nat.add_sub_cancel_left]
  simp

section
variable {pf : Platform} {m : Mli} (h : m.wf pf)
include h

theorem popcountLimbs_of_wf : popcountLimbs m.V = (List.range m.N).countP (limbsVal m.V).testBit := by
  obtain ⟨hN, hadm, hlen, hval⟩ := h
  have hL := admittedLimbWidth_pos hadm
  obtain ⟨-, hK, -⟩ := limbCount_bounds hN hL
  exact popcountLimbs_eq_countP_testBit hL (hlen ▸ hK) hval

/-- Of the `N` bits the complement counts those the value does not (R118). -/
theorem popcountLimbs_complementLimbs :
    popcountLimbs (complementLimbs m.N m.V) = m.N - popcountLimbs m.V := by
  have hflip : (List.range m.N).countP (limbsVal (complementLimbs m.N m.V)).testBit =
      (List.range m.N).countP (fun i => !(limbsVal m.V).testBit i) := by
    obtain ⟨hN, hadm, hlen, -⟩ := h
    have hL := admittedLimbWidth_pos hadm
    refine List.countP_congr fun i hi => ?_
    rw [limbsVal_testBit hL, limbsVal_testBit hL, bitAt_complementLimbs hN hL hlen,
      decide_eq_true (List.mem_range.1 hi), Bool.true_and]
  exact (popcountLimbs_of_wf (complementLimbs_wf h)).trans <| by
    rw [hflip, countP_not, List.length_range, popcountLimbs_of_wf h]

end

/-- Settles O29: the complement counts the bits that were not set. -/
theorem popcountAfterComplement : Obligations.PopcountAfterComplement := by
  intro s m ht hf hwf
  have hle : popcountLimbs m.V ≤ m.N := by
    rw [popcountLimbs_of_wf hwf]
    exact List.countP_le_length.trans_eq List.length_range
  refine ⟨_, _, _, exec_popcount_mli ht hf, hle, exec_complement_mli ht hf,
    exec_popcount_mli (answered_addressed ht _ _) hf, ?_⟩
  rw [popcountLimbs_complementLimbs hwf]
  rfl

/-! ### The pre-shifted forms (R122, R125) -/

/-- Settles O32: the masked chain is the parity at offset `M`, which is what `PARITY_TOP` answers. -/
theorem parityChainIsShiftedParity : Obligations.ParityChainIsShiftedParity :=
  fun _ _ V ps _ hL _ => ⟨parityTopChain_eq hL V ps, rfl⟩

/-- A boolean moved to offset `M` is an admitted fill, under which `SHR1P` does what `SHR1` does (R125). -/
theorem exec_shr1p_bitWord {s : State} {m : Mli} (ht : s.instances[s.target]? = some (.mli m))
    (hf : m.faulted = false) (hL : 1 ≤ m.L) (b : Bool) :
    exec (.shr1p (bitWord m.L b <<< topOffset m.N m.L).toNat) s =
      .next (s.answered (.mli { m with V := shr1Limbs m.N m.V b }) (.ok .none)) := by
  have hfill := bitWord_shiftLeft_toNat b (topOffset_lt m.N hL)
  have hadmitted : b.toNat * 2 ^ topOffset m.N m.L = 0 ∨ b.toNat * 2 ^ topOffset m.N m.L = 2 ^ topOffset m.N m.L := by
    cases b <;> simp
  rw [exec_shr1p_positioned ht hf (hfill ▸ hadmitted), BitVec.ofNat_toNat, BitVec.setWidth_eq]
  rfl

/-- Settles O35: `SHR1P` of a boolean at offset `M` is `SHR1` of the boolean, and `PARITY_TOP` answers the parity at
offset `M`. -/
theorem shiftVariantsAgree : Obligations.ShiftVariantsAgree := by
  rintro s m ht hf ⟨-, hadm, -, -⟩
  have hL := admittedLimbWidth_pos hadm
  refine ⟨fun b => ⟨_, _, exec_shr1_mli ht hf b, exec_shr1p_bitWord ht hf hL b, rfl⟩, fun ps hps => ?_⟩
  exact ⟨_, _, _, _, _, _, exec_parity_inRange ht hf hps, rfl, exec_parityTop_inRange ht hf hps, rfl,
    exec_shr1_mli (answered_addressed ht _ _) hf _, exec_shr1p_bitWord (answered_addressed ht _ _) hf hL _, rfl⟩

/-! ### Repeated shifts (R126) -/

section
variable {pf : Platform} {m : Mli} (h : m.wf pf)
include h

theorem limbsVal_shr1Limbs_false : limbsVal (shr1Limbs m.N m.V false) = limbsVal m.V / 2 := by
  obtain ⟨hN, hadm, hlen, hval⟩ := h
  have hv := limbsVal_shiftLimbs hN (admittedLimbWidth_pos hadm) hlen hval false
  rwa [Bool.toNat_false, Nat.zero_mul, Nat.add_zero] at hv

/-- Bit `i` set in a zero value is the value `2^i`. -/
theorem limbsVal_setBitAt_zero {i : Nat} (hi : i < m.N) (hzero : limbsVal m.V = 0) :
    limbsVal (setBitAt m.V i true) = 2 ^ i := by
  obtain ⟨-, hadm, hlen, -⟩ := h
  have hL := admittedLimbWidth_pos hadm
  refine Nat.eq_of_testBit_eq fun j => ?_
  rw [limbsVal_testBit hL, bitAt_setBitAt hL (hlen ▸ div_lt_limbCount hL hi), ← limbsVal_testBit hL, hzero,
    Nat.zero_testBit, Nat.testBit_two_pow]
  by_cases hj : j = i
  · simp [hj]
  · simp [hj, Ne.symm hj]

end

theorem two_pow_div_two (i : Nat) : 2 ^ i / 2 = if i = 0 then 0 else 2 ^ (i - 1) := by
  cases i with
  | zero => rfl
  | succ i => simp [Nat.pow_succ]

/-- `n` requests `SHR1 0` complete and divide the value by `2^n` (R123). -/
theorem execTimes_shr1_false (n : Nat) {s : State} {m : Mli} (ht : s.instances[s.target]? = some (.mli m))
    (hf : m.faulted = false) (hwf : m.wf s.platform) :
    ∃ u m', execTimes (.shr1 false) n s = .next u ∧ u.instances[s.target]? = some (.mli m') ∧
      limbsVal m'.V = limbsVal m.V / 2 ^ n := by
  induction n generalizing s m with
  | zero => exact ⟨s, m, rfl, ht, (Nat.div_one _).symm⟩
  | succ n ih =>
    have hmid := answered_addressed ht (.mli { m with V := shr1Limbs m.N m.V false }) (.ok .none)
    obtain ⟨u, m', hrun, hu, hval⟩ := ih hmid hf (shr1Limbs_wf hwf false)
    refine ⟨u, m', ?_, hu, ?_⟩
    · rw [execTimes, exec_shr1_mli ht hf]
      exact hrun
    · rw [hval, limbsVal_shr1Limbs_false hwf, Nat.div_div_eq_div_mul, Nat.pow_succ']

/-- Settles O36: each `SHR1 0` halves the value, which takes `2^i` one place down and `2^N - 1` to 0 in `N` steps. -/
theorem shiftRoundTripLaws : Obligations.ShiftRoundTripLaws := by
  refine fun s m ht hf hwf => ⟨fun i hi hzero => ?_, fun hones => ?_⟩
  · have hset := answered_addressed ht (.mli { m with V := setBitAt m.V i true }) (.ok .none)
    refine ⟨_, _, _, exec_setBit_inRange ht hf hi, exec_shr1_mli hset hf false, answered_addressed hset _ _, ?_⟩
    rw [← two_pow_div_two, ← limbsVal_setBitAt_zero hwf hi hzero]
    exact limbsVal_shr1Limbs_false (setBitAt_wf hwf hi true)
  · obtain ⟨u, m', hrun, hu, hval⟩ := execTimes_shr1_false m.N ht hf hwf
    refine ⟨u, m', hrun, hu, ?_⟩
    rw [hval, hones]
    exact Nat.div_eq_of_lt (Nat.sub_lt (Nat.two_pow_pos _) one_pos)

end Sys2Proof.Machine
end

section
/-! PROOFS. Frames, order and independence (R34, R35, R56 to R58, R218, R221, R255): what a request leaves unchanged,
what its outcome depends on, what no step takes back, and the statements settled here. -/

namespace Sys2Proof.Machine

/-! ### What a served request may change -/

section
variable {s : State} {i : Instr} {inst inst' : Instance} {r : Response} (h : Served s i inst inst' r)
include h

theorem served_sameParams : inst.sameParams inst' := by
  cases h with
  | stateSmall e | nextSmall e => exact ⟨rfl, rfl, rfl⟩
  | stateBig e | nextBig e | toU64Big e => exact ⟨rfl, rfl, rfl⟩
  | _ => exact ⟨rfl, rfl⟩

/-- An engine's register is written by `NEXT` alone (R20, R23). -/
theorem served_engine (heng : inst.isEngine = true) : inst' = inst ∨ i = .next := by
  cases h with
  | stateSmall | stateBig | toU64Big => exact .inl rfl
  | nextSmall | nextBig => exact .inr rfl
  | _ => cases heng

/-- A reading request that ends `Ok` leaves what it read as it is (R56). -/
theorem served_reading (hop : i.op ∈ [Op.state, .bit, .popcount, .parity, .parityTop, .toU64, .equal]) {res : Result}
    (hr : r = .ok res) : inst' = inst := by
  cases h with
  | bitFault | setBitFault | parityFault | parityTopFault => cases hr
  | nextSmall | nextBig | setBit | complement | shr1 | shr1p => exact absurd hop (by simp [Instr.op])
  | _ => rfl

/-- A fault is that of an index request on an MLI, with the index out of range (R216, R218). -/
theorem served_fault {c : FaultCause} {info : Nat} (hr : r = .fault c info) :
    i.op ∈ [Op.bit, .setBit, .parity, .parityTop] ∧
      ∃ m, inst = .mli m ∧ m.N ≤ info ∧ inst' = .mli (raiseFaulted m) := by
  cases h with
  | bitFault m i hf hN | setBitFault m i b hf hN =>
    cases hr
    exact ⟨by simp [Instr.op], m, rfl, hN, rfl⟩
  | parityFault m ps p hf hp | parityTopFault m ps p hf hp =>
    cases hr
    exact ⟨by simp [Instr.op], m, rfl, (firstOutOfRange_some.1 hp).1, rfl⟩
  | _ => cases hr

end

/-- The record after one response tells which response it was. -/
theorem answered_outputs_inj {s : State} {inst : Instance} {r r' : Response} {k : Nat}
    (h : (s.answered inst r).outputs = .response k r' :: s.outputs) : r = r' := by
  rw [State.answered_outputs] at h
  injection h with hhead
  injection hhead

/-- Settles O42: `exec` replaces what it addresses, keeps its parameters, and puts out one response. -/
theorem requestFrame : Obligations.RequestFrame := by
  intro i s t h
  obtain ⟨hpf, htarget, hpending, hmarks, hlen, hother⟩ := exec_next_frame h
  obtain ⟨inst, inst', r, ht, hserved, rfl⟩ := exec_next h
  exact ⟨hpf, htarget, hpending, hmarks, hlen, hother, ⟨r, rfl⟩, inst, inst', ht, answered_addressed ht inst' r,
    served_sameParams hserved⟩

/-- Settles O39: the response of a request that faults names its way of being served. -/
theorem onlyIndexRequestsFault : Obligations.OnlyIndexRequestsFault := by
  intro s t i c info h hout
  obtain ⟨inst, inst', r, ht, hserved, rfl⟩ := exec_next h
  obtain ⟨hop, m, rfl, hN, rfl⟩ := served_fault hserved (answered_outputs_inj hout)
  exact ⟨hop, m, ht, hN, answered_addressed ht _ _⟩

/-! ### What the outcome depends on -/

/-- Outcomes of one kind, the same but for the states they were answered in: the same new register and response, the
same fault, or the same refusal (R57). -/
inductive Alike (s s' : State) : Out → Out → Prop
  | next (inst : Instance) (r : Response) : Alike s s' (.next (s.answered inst r)) (.next (s'.answered inst r))
  | fault (f : Fault) : Alike s s' (.fault f) (.fault f)
  | refused (r : Refusal) : Alike s s' (.refused r) (.refused r)

section
variable {s s' : State}

theorem alike_answer (inst : Instance) (r : Result) : Alike s s' (answer s inst r) (answer s' inst r) :=
  .next inst (.ok r)

theorem alike_checkIndexes (m : Mli) (ps : List Nat) {ok ok' : Out} (h : Alike s s' ok ok') :
    Alike s s' (checkIndexes s m ps ok) (checkIndexes s' m ps ok') := by
  unfold checkIndexes
  cases firstOutOfRange m.N ps with
  | none => exact h
  | some p => exact .next _ _

theorem alike_onMli {f f' : Mli → Out} (h : ∀ m, Alike s s' (f m) (f' m)) (inst : Instance) :
    Alike s s' (onMli f inst) (onMli f' inst) := by
  cases inst with
  | mli m => exact h m
  | small e => exact .refused _
  | big e => exact .refused _

/-- The common checks look at nothing but what is addressed (R220). -/
theorem alike_serve (op : Op) {f f' : Instance → Out} (ht : s.instances[s.target]? = s'.instances[s'.target]?)
    (h : ∀ inst, Alike s s' (f inst) (f' inst)) : Alike s s' (serve op s f) (serve op s' f') := by
  unfold serve
  rw [ht]
  cases s'.instances[s'.target]? with
  | none => exact .refused _
  | some inst =>
    dsimp only
    split
    · exact .fault _
    · split
      · exact h inst
      · exact .refused _

/-- Of the state a meaning reads the platform and what it addresses, and no more (R34, R57). -/
theorem exec_alike (i : Instr) (hpf : s.platform = s'.platform)
    (ht : s.instances[s.target]? = s'.instances[s'.target]?) : Alike s s' (exec i s) (exec i s') := by
  cases i with
  | state =>
    refine alike_serve _ ht fun inst => ?_
    cases inst with
    | small e => exact alike_answer _ _
    | big e => exact alike_answer _ _
    | mli m => exact .refused _
  | next =>
    refine alike_serve _ ht fun inst => ?_
    rw [hpf]
    cases inst with
    | small e => exact alike_answer _ _
    | big e => exact alike_answer _ _
    | mli m => exact .refused _
  | toU64 =>
    refine alike_serve _ ht fun inst => ?_
    cases inst with
    | small e => exact .refused _
    | big e => exact alike_answer _ _
    | mli m =>
      dsimp only
      split
      · exact alike_answer _ _
      · split
        · exact alike_answer _ _
        · exact .refused _
  | bit | setBit | parity | parityTop =>
    exact alike_serve _ ht (alike_onMli fun m => alike_checkIndexes m _ (alike_answer _ _))
  | popcount | complement | shr1 => exact alike_serve _ ht (alike_onMli fun m => alike_answer _ _)
  | shr1p fill =>
    refine alike_serve _ ht (alike_onMli fun m => ?_)
    cases positionedFill m.N m.L fill with
    | none => exact .refused _
    | some f => exact alike_answer _ _
  | equal w =>
    refine alike_serve _ ht (alike_onMli fun m => ?_)
    cases comparand m.N m.L w with
    | none => exact .refused _
    | some c => exact alike_answer _ _

/-- Where one state's request answers a next state, so does the other's, with the same register and response. -/
theorem exec_next_alike {i : Instr} {t : State} (hpf : s.platform = s'.platform)
    (ht : s.instances[s.target]? = s'.instances[s'.target]?) (h : exec i s = .next t) :
    ∃ inst r, t = s.answered inst r ∧ exec i s' = .next (s'.answered inst r) := by
  have halike := exec_alike i hpf ht
  rw [h] at halike
  generalize exec i s' = o at halike ⊢
  cases halike with
  | next inst r => exact ⟨inst, r, rfl, rfl⟩

end

/-- Settles O44: outcomes that are alike put the same entry in the place of equal entries. -/
theorem outcomeDependsOnInstanceAlone : Obligations.OutcomeDependsOnInstanceAlone := by
  intro i s s' hpf ht
  have halike := exec_alike i hpf ht
  generalize exec i s = o at halike ⊢
  generalize exec i s' = o' at halike ⊢
  cases halike with
  | next inst r =>
    refine ⟨?_, r, rfl, rfl⟩
    rw [State.answered_instances, State.answered_instances, List.getElem?_set_self', List.getElem?_set_self', ht]
  | fault f => rfl
  | refused r => rfl

/-- Settles O43: a reading request puts what it read back in its place, so the same request finds the same
there again. -/
theorem readingRequestsChangeNothing : Obligations.ReadingRequestsChangeNothing := by
  intro i s t r hop h hout
  obtain ⟨inst, inst', r', ht, hserved, rfl⟩ := exec_next h
  obtain rfl := answered_outputs_inj hout
  obtain rfl := served_reading hserved hop rfl
  have hsame : (s.answered inst' (.ok r)).instances = s.instances := by
    obtain ⟨hlt, hget⟩ := List.getElem?_eq_some_iff.1 ht
    rw [State.answered_instances, ← hget, List.set_getElem_self]
  refine ⟨hsame, ?_⟩
  obtain ⟨a, r'', heq, hexec⟩ := exec_next_alike (s := s) (s' := s.answered inst' (.ok r)) rfl
    (congrArg (·[s.target]?) hsame.symm) h
  have hr : (.ok r : Response) = r'' := answered_outputs_inj (congrArg State.outputs heq)
  refine ⟨_, hexec, ?_, hr ▸ rfl⟩
  calc ((s.answered inst' (.ok r)).answered a r'').instances
      = (s.answered a r'').instances := List.set_set _
    _ = s.instances := heq ▸ hsame

/-! ### Requests to different instances -/

/-- The order of two responses of different instances does not show in either's (R58). -/
theorem responsesOf_swap {j k : Nat} (h : j ≠ k) (r r' : Response) (es : List Event) (n : Nat) :
    responsesOf n (.response j r :: .response k r' :: es) = responsesOf n (.response k r' :: .response j r :: es) := by
  by_cases hj : j = n
  · have hk : k ≠ n := fun hk => h (hj.trans hk.symm)
    simp [responsesOf, hj, hk]
  · simp [responsesOf, List.filterMap_cons, hj]

/-- Settles O45: each request finds the platform and its own entry as it would in the other order, and entries set at
two places of a list are the same in either order. -/
theorem requestsToDifferentInstancesCommute : Obligations.RequestsToDifferentInstancesCommute := by
  intro s t u i i' j k hjk hexec hexec'
  obtain ⟨hpf, -, -, -, -, hother⟩ := exec_next_frame hexec
  obtain ⟨b, r', rfl, hfirst⟩ := exec_next_alike (s := { t with target := k }) (s' := { s with target := k }) hpf
    (hother k hjk.symm) hexec'
  obtain ⟨-, -, -, -, -, hother'⟩ := exec_next_frame hfirst
  obtain ⟨a, r, rfl, hsecond⟩ := exec_next_alike (s := { s with target := j })
    (s' := { ({ s with target := k } : State).answered b r' with target := j }) rfl (hother' j hjk).symm hexec
  exact ⟨_, _, hfirst, hsecond, List.set_comm _ _ hjk.symm, rfl, responsesOf_swap hjk _ _ _⟩

/-! ### The stuck rule -/

/-- Whatever the request, it has no step where `FAULTED` is set (R221). -/
theorem exec_stuck (i : Instr) {s : State} {inst : Instance} (ht : s.instances[s.target]? = some inst)
    (hs : inst.stuck = true) : exec i s = .fault .stuck := by
  cases i <;> exact serve_stuck _ ht hs

/-- A run with a mark has not ended normally (R213, R255). -/
theorem not_endedNormally_of_mark {s : State} {m : Mark} (h : m ∈ s.marks) : ¬ s.endedNormally m.index :=
  fun ⟨_, _, _, hmarks⟩ => hmarks m h rfl

/-- Nor has a run with a fault among its responses (R255). -/
theorem not_endedNormally_of_fault {s : State} {k : Nat} {r : Response} (h : r ∈ responsesOf k s.outputs)
    (hr : r.status = 1#1) : ¬ s.endedNormally k := fun ⟨_, _, hok, _⟩ => by
  have hzero := hok r h
  rw [hr] at hzero
  exact absurd hzero (by decide)

/-- Settles O40: every meaning is stuck there, and the step settles that as a mark. -/
theorem faultedInstanceIsStuck : Obligations.FaultedInstanceIsStuck := by
  intro s k p rest m hp hk hfaulted
  refine ⟨fun i => exec_stuck i hk hfaulted, _, ?_, rfl, rfl, rfl, not_endedNormally_of_mark (m := .noStep k) ?_⟩
  · have hattend : attend p { s with pending := rest, target := k } = .fault .stuck := attend_stuck hk hfaulted
    rw [step_cons hp]
    simp only [clientMove, presentRequest, hattend, settle_stuck]
  · exact List.mem_cons_self

/-! ### What no step changes -/

theorem step_platform {s t : State} (h : step s = .next t) : t.platform = s.platform := by
  obtain ⟨-, rfl⟩ | ⟨_, _, _, -, -, rfl⟩ | ⟨_, _, _, -, -, rfl⟩ | ⟨_, _, _, _, _, -, -, -, -, hexec⟩ |
    ⟨_, _, _, _, -, -, rfl⟩ | ⟨_, _, _, -, -, rfl⟩ := step_next h
  · rfl
  · rfl
  · rfl
  · exact (exec_next_frame hexec).1
  · rfl
  · rfl

/-- All instances are still there after a step, with their parameters (R7). -/
theorem step_sameParams {s t : State} {k : Nat} {inst : Instance} (h : step s = .next t)
    (hk : s.instances[k]? = some inst) : ∃ inst', t.instances[k]? = some inst' ∧ inst.sameParams inst' := by
  obtain hsame | ⟨rest, -, hreset⟩ | ⟨ports, rest, i, -, -, -, hexec⟩ := step_next_instance h hk
  · exact ⟨inst, hsame, sameParams_refl inst⟩
  · exact ⟨_, hreset, sameParams_resetState inst⟩
  · obtain ⟨a, inst', r, ha, hserved, rfl⟩ := exec_next hexec
    obtain rfl : a = inst := Option.some.inj (ha.symm.trans hk)
    exact ⟨inst', answered_addressed ha inst' r, served_sameParams hserved⟩

theorem responsesOf_append (k : Nat) (es es' : List Event) :
    responsesOf k (es ++ es') = responsesOf k es ++ responsesOf k es' := List.filterMap_append

/-- Settles O46: a step adds to the two records in front, so a fault or a mark stays on record. -/
theorem parametersNeverChange : Obligations.ParametersNeverChange := by
  intro s t h
  obtain ⟨⟨es, hes⟩, ms, hms⟩ := step_records h
  refine ⟨step_platform h, fun k inst hk => step_sameParams h hk, ⟨es, hes⟩, ⟨ms, hms⟩, ?_⟩
  rintro k (⟨r, hr, hstatus⟩ | ⟨m, hm, rfl⟩)
  · refine not_endedNormally_of_fault (r := r) ?_ hstatus
    rw [hes, responsesOf_append]
    exact List.mem_append_right _ hr
  · exact not_endedNormally_of_mark (hms ▸ List.mem_append_right _ hm)

/-- Settles O47: a request that runs at an engine writes its register only if it is `NEXT`, whose row is op = 0x1. -/
theorem engineChangesOnlyByNextOrReset : Obligations.EngineChangesOnlyByNextOrReset := by
  intro s t k inst h hk heng
  obtain hsame | ⟨rest, hp, -⟩ | ⟨ports, rest, i, hp, -, hd, hexec⟩ := step_next_instance h hk
  · exact .inl hsame
  · exact .inr (.inl ⟨rest, hp⟩)
  · obtain ⟨a, inst', r, ha, hserved, rfl⟩ := exec_next hexec
    obtain rfl : a = inst := Option.some.inj (ha.symm.trans hk)
    obtain rfl | rfl := served_engine hserved heng
    · exact .inl (answered_addressed ha _ r)
    · exact .inr (.inr ⟨ports, rest, hp, (decode_eq_instr hd).1⟩)

/-! ### A duplicate (R35) -/

/-- Settles O48: the copy stands after the others, and a request leaves every entry but the one it addresses. -/
theorem duplicateEvolvesIndependently : Obligations.DuplicateEvolvesIndependently := by
  intro s k inst hk
  have hlt : k < s.instances.length := (List.getElem?_eq_some_iff.1 hk).1
  have hdup : s.duplicate k = { s with instances := s.instances ++ [inst] } := by simp [State.duplicate, hk]
  have hold : ∀ j, j < s.instances.length → (s.duplicate k).instances[j]? = s.instances[j]? := fun j hj => by
    rw [hdup]
    exact List.getElem?_append_left hj
  have hnew : (s.duplicate k).instances[s.instances.length]? = some inst := by
    rw [hdup]
    exact List.getElem?_concat_length
  refine ⟨hnew, by rw [hdup], hold, fun i t hexec => ?_, fun i t hexec => ?_⟩
  · obtain ⟨-, -, -, -, -, hother⟩ := exec_next_frame hexec
    exact (hother _ (Nat.ne_of_gt hlt)).trans hnew
  · obtain ⟨-, -, -, -, -, hother⟩ := exec_next_frame hexec
    exact (hother _ (Nat.ne_of_lt hlt)).trans ((hold k hlt).trans hk)

end Sys2Proof.Machine
end

section
/-! PROOFS. The sequence of `next_N` (R157, R158, R178 to R180, R197 to R203, R243): what of it follows from the shape
of the tap set, what needs the contract of R155, the engines that hold it, and the statements settled here. -/

namespace Sys2Proof.Machine

/-! ### Tap positions -/

/-- Settles O10: `N - t` turns the descending taps from `N` into ascending positions from 0. -/
theorem tapPositionsAreValidIndexes : Obligations.TapPositionsAreValidIndexes := by
  intro N T hT
  have hbounds := tap_bounds hT
  obtain ⟨-, hhead, hdesc, -⟩ := wellFormedTaps_iff.1 hT
  refine ⟨?_, ?_, ?_, List.length_map _, fun t ht => List.mem_map_of_mem ht⟩
  · rw [tapPositions, List.head?_map, hhead, Option.map_some, Nat.sub_self]
  · refine List.pairwise_map.2 (hdesc.imp_of_mem fun {a b} ha _ hab => ?_)
    obtain ⟨-, haN⟩ := hbounds a ha
    omega
  · intro p hp
    obtain ⟨t, ht, rfl⟩ := List.mem_map.1 hp
    obtain ⟨ht1, htN⟩ := hbounds t ht
    omega

/-- Settles O52: both strategies leave the array of Strategy B. -/
theorem bigStrategiesAreNextN : Obligations.BigStrategiesAreNextN := by
  intro N L T S hT hL hlen hval
  rw [bigStepA_eq hL]
  exact ⟨rfl, limbsVal_bigStepB hL (width_pos_of_wellFormedTaps hT) T hlen hval⟩

/-! ### The sequence as an iteration -/

section
variable (N : Nat) (T : List Nat)

theorem iterNextN_eq_iterate (k s : Nat) : iterNextN N T k s = (nextN N T)^[k] s := by
  induction k generalizing s with
  | zero => rfl
  | succ k ih => exact ih (nextN N T s)

theorem iterNextN_add (j k s : Nat) : iterNextN N T (j + k) s = iterNextN N T j (iterNextN N T k s) := by
  simp only [iterNextN_eq_iterate, Function.iterate_add_apply]

/-- What `next_N` keeps holds along the sequence. -/
theorem iterNextN_keeps {P : Nat → Prop} (hP : ∀ s, P s → P (nextN N T s)) (k : Nat) {s : Nat} (hs : P s) :
    P (iterNextN N T k s) := by
  induction k generalizing s with
  | zero => exact hs
  | succ k ih => exact ih (hP s hs)

theorem nextN_zero : nextN N T 0 = 0 := by
  simp [nextN, feedback_eq_odd]

end

/-! ### Zero is never reached (R179) -/

section
variable {N : Nat} {T : List Nat} (hT : wellFormedTaps N T = true)
include hT

theorem nextN_eq_zero_iff (s : Nat) : nextN N T s = 0 ↔ s = 0 := by
  refine ⟨fun h => ?_, fun h => h ▸ nextN_zero N T⟩
  by_contra hs
  exact Nat.ne_of_gt (nextN_pos hT (Nat.one_le_iff_ne_zero.2 hs)) h

theorem iterNextN_pos (k : Nat) {s : Nat} (hs : 1 ≤ s) : 1 ≤ iterNextN N T k s :=
  iterNextN_keeps N T (fun _ h => nextN_pos hT h) k hs

theorem iterNextN_lt (k : Nat) {s : Nat} (hs : s < 2 ^ N) : iterNextN N T k s < 2 ^ N :=
  iterNextN_keeps N T (P := (· < 2 ^ N)) (fun _ => nextN_lt (width_pos_of_wellFormedTaps hT) T) k hs

end

/-- Settles O55: `next_N` leads to 0 only from 0. -/
theorem zeroIsNeverReached : Obligations.ZeroIsNeverReached := fun _ _ hT =>
  ⟨fun s _ => nextN_eq_zero_iff hT s, fun k => Nat.ne_of_gt (iterNextN_pos hT k (Nat.le_refl 1))⟩

/-! ### The old state from the new one (R180) -/

section
variable {N : Nat} {T : List Nat} (hN : 1 ≤ N) {s : Nat} (hs : s < 2 ^ N)
include hN hs

/-- Every bit but the top one comes from one place up (R173). -/
theorem nextN_testBit_low {i : Nat} (hi : i < N - 1) : (nextN N T s).testBit i = s.testBit (i + 1) := by
  rw [nextN_testBit_eq_ite hN T hs, if_neg (Nat.ne_of_lt hi)]

/-- The top bit is the feedback bit (R173). -/
theorem nextN_testBit_top : (nextN N T s).testBit (N - 1) = feedback N T s := by
  rw [nextN_testBit_eq_ite hN T hs, if_pos rfl, feedback_eq_setPositions]

/-- The bits the taps below `N` read stand one place down in the new state. -/
theorem setPositions_nextN {ts : List Nat} (hts : ∀ t ∈ ts, 1 ≤ t ∧ t < N) :
    setPositions (nextN N T s) (ts.map (fun t => N - t - 1)) = ts.countP (fun t => s.testBit (N - t)) := by
  rw [setPositions, List.countP_map]
  refine List.countP_congr fun t ht => ?_
  obtain ⟨ht1, htN⟩ := hts t ht
  have hlow : N - t - 1 < N - 1 := by omega
  have hup : N - t - 1 + 1 = N - t := by omega
  rw [Function.comp_apply, nextN_testBit_low hN hs hlow, hup]

end

/-- The tap `N` feeds bit 0 back, the taps after it the rest of the parity (R173). -/
theorem feedback_cons_self (N : Nat) (ts : List Nat) (s : Nat) :
    feedback N (N :: ts) s = (s.testBit 0 ^^ decide (ts.countP (fun t => s.testBit (N - t)) % 2 = 1)) := by
  rw [feedback, List.foldl_cons, foldl_xor_eq_odd (fun t => s.testBit (N - t)), Nat.sub_self, Bool.false_xor]

section
variable {N : Nat} {T : List Nat} (hT : wellFormedTaps N T = true)
include hT

/-- Bit 0 of the old state is what the new top bit holds beyond the parity of the other taps (R180). -/
theorem testBit_zero_eq {s : Nat} (hs : s < 2 ^ N) :
    s.testBit 0 = ((nextN N T s).testBit (N - 1) ^^
      decide (setPositions (nextN N T s) (T.tail.map (fun t => N - t - 1)) % 2 = 1)) := by
  have hN := width_pos_of_wellFormedTaps hT
  obtain ⟨-, hhead, hdesc, hpos⟩ := wellFormedTaps_iff.1 hT
  obtain ⟨ts, rfl⟩ := List.head?_eq_some_iff.1 hhead
  have hts : ∀ t ∈ ts, 1 ≤ t ∧ t < N := fun t ht =>
    ⟨hpos t (List.mem_cons_of_mem N ht), List.rel_of_pairwise_cons hdesc ht⟩
  rw [nextN_testBit_top hN hs, List.tail_cons, setPositions_nextN hN hs hts, feedback_cons_self, Bool.xor_assoc,
    Bool.xor_self, Bool.xor_false]

/-- Every other bit of the old state stands one place down (R180). -/
theorem testBit_eq_of_pos {s i : Nat} (hs : s < 2 ^ N) (h1 : 1 ≤ i) (hi : i ≤ N - 1) :
    s.testBit i = (nextN N T s).testBit (i - 1) := by
  rw [nextN_testBit_low (width_pos_of_wellFormedTaps hT) hs (by omega), Nat.sub_add_cancel h1]

theorem nextN_injOn {s r : Nat} (hs : s < 2 ^ N) (hr : r < 2 ^ N) (h : nextN N T s = nextN N T r) : s = r := by
  refine Nat.eq_of_testBit_eq fun i => ?_
  obtain rfl | hi | hi : i = 0 ∨ (1 ≤ i ∧ i ≤ N - 1) ∨ N ≤ i := by omega
  · rw [testBit_zero_eq hT hs, testBit_zero_eq hT hr, h]
  · rw [testBit_eq_of_pos hT hs hi.1 hi.2, testBit_eq_of_pos hT hr hi.1 hi.2, h]
  · have hpow : 2 ^ N ≤ 2 ^ i := Nat.pow_le_pow_right (by decide) hi
    rw [Nat.testBit_lt_two_pow (hs.trans_le hpow), Nat.testBit_lt_two_pow (hr.trans_le hpow)]

end

/-! ### The transition on the finite set of `N`-bit values -/

/-- `next_N` as a map of the `N`-bit values to themselves. -/
def nextFin {N : Nat} (hN : 1 ≤ N) (T : List Nat) (s : Fin (2 ^ N)) : Fin (2 ^ N) :=
  ⟨nextN N T s, nextN_lt hN T s.isLt⟩

theorem nextFin_iterate_val {N : Nat} (hN : 1 ≤ N) (T : List Nat) (k : Nat) (s : Fin (2 ^ N)) :
    ((nextFin hN T)^[k] s).val = iterNextN N T k s := by
  induction k generalizing s with
  | zero => rfl
  | succ k ih => exact ih (nextFin hN T s)

theorem nextFin_injective {N : Nat} {T : List Nat} (hT : wellFormedTaps N T = true) (hN : 1 ≤ N) :
    Function.Injective (nextFin hN T) := fun s r h =>
  Fin.ext (nextN_injOn hT s.isLt r.isLt (congrArg Fin.val h))

section
variable {N : Nat} {T : List Nat} (hT : wellFormedTaps N T = true)
include hT

/-- An injective map of a finite set to itself is onto. -/
theorem exists_nextN_eq {r : Nat} (hr : r < 2 ^ N) : ∃ s, s < 2 ^ N ∧ nextN N T s = r := by
  have hN := width_pos_of_wellFormedTaps hT
  obtain ⟨s, hs⟩ := Finite.surjective_of_injective (nextFin_injective hT hN) ⟨r, hr⟩
  exact ⟨s, s.isLt, congrArg Fin.val hs⟩

/-- Every point of an injective map of a finite set is periodic. -/
theorem exists_iterNextN_eq_self {s : Nat} (hs : s < 2 ^ N) : ∃ k, 1 ≤ k ∧ iterNextN N T k s = s := by
  have hN := width_pos_of_wellFormedTaps hT
  obtain ⟨k, hk, hper⟩ := (nextFin_injective hT hN).mem_periodicPts ⟨s, hs⟩
  exact ⟨k, hk, (nextFin_iterate_val hN T k ⟨s, hs⟩).symm.trans (congrArg Fin.val hper)⟩

/-- Where two places of the sequence agree, it has returned to its start between them. -/
theorem iterNextN_sub_eq_self {s j k : Nat} (hs : s < 2 ^ N) (h : iterNextN N T k s = iterNextN N T j s) :
    iterNextN N T (k - j) s = s := by
  have hN := width_pos_of_wellFormedTaps hT
  have heq : (nextFin hN T)^[k] ⟨s, hs⟩ = (nextFin hN T)^[j] ⟨s, hs⟩ := by
    rw [Fin.ext_iff, nextFin_iterate_val, nextFin_iterate_val]
    exact h
  rw [← nextFin_iterate_val hN T (k - j) ⟨s, hs⟩, Function.iterate_cancel (nextFin_injective hT hN) heq]

theorem one_lt_two_pow_width : 1 < 2 ^ N := Nat.one_lt_two_pow (Nat.ne_of_gt (width_pos_of_wellFormedTaps hT))

end

/-- Settles O56: the old state is read off the new one, so the transition is injective on a finite set, hence onto and
periodic from 1. -/
theorem transitionIsBijective : Obligations.TransitionIsBijective := fun _ T hT =>
  ⟨fun _ hs => ⟨nextN_lt (width_pos_of_wellFormedTaps hT) T hs, fun _ => testBit_eq_of_pos hT hs,
      testBit_zero_eq hT hs⟩,
    fun _ _ => nextN_injOn hT, fun _ => exists_nextN_eq hT, exists_iterNextN_eq_self hT (one_lt_two_pow_width hT)⟩

/-! ### The recurrence of bit 0 (R158) -/

section
variable {N : Nat} {T : List Nat} (hN : 1 ≤ N) {s : Nat} (hs : s < 2 ^ N)
include hN hs

/-- Bit `j` comes down to bit 0 in `j` steps. -/
theorem iterNextN_testBit_zero {j : Nat} (hj : j < N) : (iterNextN N T j s).testBit 0 = s.testBit j := by
  induction j generalizing s with
  | zero => rfl
  | succ j ih =>
    rw [iterNextN, ih (nextN_lt hN T hs) (by omega), nextN_testBit_low hN hs (by omega)]

/-- The feedback bit comes down to bit 0 in `N` steps. -/
theorem iterNextN_width_testBit_zero : (iterNextN N T N s).testBit 0 = feedback N T s := by
  obtain ⟨n, rfl⟩ := Nat.exists_eq_add_of_le' hN
  rw [iterNextN, iterNextN_testBit_zero hN (nextN_lt hN T hs) n.lt_succ_self]
  exact nextN_testBit_top hN hs

end

/-- Settles O57: after `N` steps bit 0 is the feedback bit, whose tapped bit `N - t` is bit 0 after `N - t` steps. -/
theorem bitZeroObeysTheRecurrence : Obligations.BitZeroObeysTheRecurrence := by
  intro N T s k hT hs
  have hN := width_pos_of_wellFormedTaps hT
  have hk := iterNextN_lt hT k hs
  rw [Nat.add_comm k N, iterNextN_add, iterNextN_width_testBit_zero hN hk, feedback_eq_odd]
  have hcount : T.countP (fun t => (iterNextN N T k s).testBit (N - t)) =
      T.countP (fun t => (iterNextN N T (N + k - t) s).testBit 0) := by
    refine List.countP_congr fun t ht => ?_
    obtain ⟨ht1, htN⟩ := tap_bounds hT t ht
    have hsplit : N + k - t = N - t + k := by omega
    rw [hsplit, iterNextN_add, iterNextN_testBit_zero hN hk (by omega)]
  rw [hcount]

/-! ### The maximal period (R178) -/

section
variable {N : Nat} {T : List Nat} (hT : wellFormedTaps N T = true) (hmax : maximalTaps N T)
include hT hmax

/-- Two equal values within one period would be a return to 1 before its end. -/
theorem iterNextN_one_ne {j k : Nat} (hjk : j < k) (hk : k < 2 ^ N - 1) : iterNextN N T j 1 ≠ iterNextN N T k 1 :=
  fun h => hmax.2 (k - j) (by omega) (by omega) (iterNextN_sub_eq_self hT (one_lt_two_pow_width hT) h.symm)

theorem iterNextN_one_injOn : Set.InjOn (fun k => iterNextN N T k 1) (Finset.range (2 ^ N - 1)) := by
  intro j hj k hk h
  have hj' := Finset.mem_range.1 hj
  have hk' := Finset.mem_range.1 hk
  obtain hlt | heq | hgt := Nat.lt_trichotomy j k
  · exact absurd h (iterNextN_one_ne hT hmax hlt hk')
  · exact heq
  · exact absurd h.symm (iterNextN_one_ne hT hmax hgt hj')

/-- `2^N - 1` distinct values among the `2^N - 1` non-zero ones are all of them. -/
theorem exists_iterNextN_one_eq {x : Nat} (h1 : 1 ≤ x) (hx : x < 2 ^ N) :
    ∃ k, k < 2 ^ N - 1 ∧ iterNextN N T k 1 = x := by
  have hmaps : Set.MapsTo (fun k => iterNextN N T k 1) (Finset.range (2 ^ N - 1)) (Finset.Ico 1 (2 ^ N)) :=
    fun k _ => Finset.mem_coe.2 <| Finset.mem_Ico.2
      ⟨iterNextN_pos hT k (Nat.le_refl 1), iterNextN_lt hT k (one_lt_two_pow_width hT)⟩
  have hcard : (Finset.Ico 1 (2 ^ N)).card ≤ (Finset.range (2 ^ N - 1)).card := by
    rw [Nat.card_Ico, Finset.card_range]
  obtain ⟨k, hk, hkx⟩ := Finset.surjOn_of_injOn_of_card_le _ hmaps (iterNextN_one_injOn hT hmax) hcard
    (Finset.mem_coe.2 (Finset.mem_Ico.2 ⟨h1, hx⟩))
  exact ⟨k, Finset.mem_range.1 hk, hkx⟩

end

/-! ### The engines that hold the sequence -/

/-- The tap set of a well-formed engine passed the shape check (R156). -/
theorem engine_taps_wellFormed {pf : Platform} {inst : Instance} (heng : inst.isEngine = true) (hwf : inst.wf pf) :
    wellFormedTaps inst.width (tapEntry pf.taps inst.width) = true := by
  cases inst with
  | small e =>
    obtain ⟨htaps, hlegal, -⟩ := hwf
    exact tapTableOk_entry htaps hlegal
  | big e =>
    obtain ⟨htaps, hlegal, -⟩ := hwf
    exact tapTableOk_entry htaps hlegal
  | mli m => cases heng

/-- Settles O54: both engines hold the same place of the same sequence (R201). -/
theorem valueIndependentOfLimbWidth : Obligations.ValueIndependentOfLimbWidth := by
  intro s s' e e' k hpf htaps hwf hwf' hN hval ht ht'
  obtain ⟨t, inst, hrun, -, hinst, hsame, -, hv⟩ := execTimes_next_engine k ht rfl ⟨htaps, hwf⟩
  obtain ⟨t', inst', hrun', -, hinst', hsame', -, hv'⟩ := execTimes_next_engine k ht' rfl ⟨hpf ▸ htaps, hwf'⟩
  obtain ⟨S, rfl⟩ := sameParams_big hsame
  obtain ⟨S', rfl⟩ := sameParams_big hsame'
  refine ⟨t, t', S, S', hrun, hrun', hinst, hinst', ?_⟩
  calc limbsVal S = iterNextN e.N (tapEntry s.platform.taps e.N) k (limbsVal e.S) := hv
    _ = iterNextN e'.N (tapEntry s'.platform.taps e'.N) k (limbsVal e'.S) := by rw [hpf, hN, hval]
    _ = limbsVal S' := hv'.symm

/-- Settles O58: the engine holds the sequence from 1, which under the contract runs through every non-zero value. -/
theorem periodIsMaximal : Obligations.PeriodIsMaximal := by
  intro s inst ht heng hwf hone hmax
  have hT := engine_taps_wellFormed heng hwf
  refine ⟨fun k => iterNextN inst.width (tapEntry s.platform.taps inst.width) k 1, fun k => ?_, rfl, hmax.1,
    fun k => ⟨iterNextN_pos hT k (Nat.le_refl 1), iterNextN_lt hT k (one_lt_two_pow_width hT)⟩,
    fun j k => iterNextN_one_ne hT hmax, fun x => exists_iterNextN_one_eq hT hmax⟩
  obtain ⟨t, inst', hrun, -, hinst, hsame, -, hval⟩ := execTimes_next_engine k ht heng hwf
  exact ⟨t, inst', hrun, hinst, hsame, hone ▸ hval⟩

/-- Settles O59: the reset event leaves a well-formed engine that holds 1. -/
theorem resetRestartsTheSequence : Obligations.ResetRestartsTheSequence := by
  intro s k rest inst hp hk heng hwf
  have hlegal := legalParams_of_wf hwf
  refine ⟨_, step_reset hp hk, fun n => ?_⟩
  obtain ⟨u, inst', hrun, -, hinst, -, -, hval⟩ := execTimes_next_engine n
    (s := { s with pending := rest, instances := s.instances.set k inst.resetState, target := k })
    (List.getElem?_set_self (List.getElem?_eq_some_iff.1 hk).1) ((resetState_isEngine inst).trans heng)
    (resetState_wf hlegal)
  refine ⟨u, inst', hrun, hinst, ?_⟩
  rw [hval, resetState_value hlegal, heng, resetState_width]
  rfl

/-! ### The full cycle of `N = 3` (R183, R203) -/

theorem maximalTaps_three : maximalTaps 3 [3, 2] :=
  ⟨by decide, fun k h0 hk => (by decide : ∀ k, k < 7 → 0 < k → iterNextN 3 [3, 2] k 1 ≠ 1) k hk h0⟩

/-- The cycle of the tap set (3, 2) as the spec lists it (R183). -/
theorem iterNextN_three : ∀ k, k < 8 → iterNextN 3 [3, 2] k 1 = [1, 4, 2, 5, 6, 7, 3, 1].getD k 0 := by decide

/-- An engine of width 3 that stands at reset with value 1 runs through the cycle. -/
theorem execTimes_next_reset {j k : Nat} {inst : Instance} (hk : k < 8) (ht : State.reset.instances[j]? = some inst)
    (heng : inst.isEngine = true) (hwidth : inst.width = 3) (hone : inst.value = 1) :
    ∃ t inst', execTimes .next k { State.reset with target := j } = .next t ∧ t.instances[j]? = some inst' ∧
      inst'.value = [1, 4, 2, 5, 6, 7, 3, 1].getD k 0 := by
  have hwf := resetMeetsInvariant inst (List.mem_of_getElem? ht)
  obtain ⟨t, inst', hrun, -, hinst, -, -, hval⟩ :=
    execTimes_next_engine k (s := { State.reset with target := j }) ht heng hwf
  refine ⟨t, inst', hrun, hinst, ?_⟩
  rw [hval, hwidth, hone, ← iterNextN_three k hk]
  exact congrArg (fun T => iterNextN 3 T k 1) tapEntry_openTable_three

/-- Settles O60: instances 0 and 1 at reset are engines of width 3 that hold 1. -/
theorem fullCycleOfWidthThree : Obligations.FullCycleOfWidthThree := by
  refine ⟨maximalTaps_three, fun j hj k hk => ?_⟩
  obtain rfl | rfl : j = 0 ∨ j = 1 := by omega
  · exact execTimes_next_reset hk rfl rfl rfl (by decide)
  · exact execTimes_next_reset hk rfl rfl rfl (by decide)

end Sys2Proof.Machine
end
